-- ==== Sys2Proof/Word.lean ====
section
/-! DEFINITION. The widths of the machine's values (spec/00_scope.md R11, R13). Every value is an unsigned
integer of one of these widths; nothing is signed. -/

namespace Sys2Proof

/-- A memory cell, a general register, a timer, an 8-bit literal (R11). -/
abbrev Byte := BitVec 8

/-- The index register, the program counter, a stack entry, an opcode (R11). -/
abbrev Word := BitVec 16

/-- The 12-bit address operand nnn (30_encoding.md R47). -/
abbrev Addr := BitVec 12

/-- A general register's number: "a register index is always a 4-bit opcode field, so every index names a
register" (10_state.md R15). -/
abbrev RegIdx := Fin 16

end Sys2Proof
end

