-- ==== Sys2Proof/Syntax.lean ====
section
/-! DEFINITION. The instructions: one constructor per row of spec/opcode_table.json (30_encoding.md R52), in the
table's order, with the operand fields its format names (R48). -/

namespace Sys2Proof

/-- The 34 instructions. `x`, `y` are register indices, `kk` the 8-bit literal, `nnn` the 12-bit address, `n` the
draw row count (R47). -/
inductive Instr where
  /-- CLS (R68) -/
  | cls
  /-- RET (R69) -/
  | ret
  /-- JP addr (R70) -/
  | jpAddr (nnn : Addr)
  /-- CALL addr (R71) -/
  | callAddr (nnn : Addr)
  /-- SE Vx, byte (R72) -/
  | seByte (x : RegIdx) (kk : Byte)
  /-- SNE Vx, byte (R73) -/
  | sneByte (x : RegIdx) (kk : Byte)
  /-- SE Vx, Vy (R74) -/
  | seReg (x y : RegIdx)
  /-- LD Vx, byte (R79) -/
  | ldByte (x : RegIdx) (kk : Byte)
  /-- ADD Vx, byte (R80) -/
  | addByte (x : RegIdx) (kk : Byte)
  /-- LD Vx, Vy (R81) -/
  | ldReg (x y : RegIdx)
  /-- OR Vx, Vy (R82) -/
  | orReg (x y : RegIdx)
  /-- AND Vx, Vy (R83) -/
  | andReg (x y : RegIdx)
  /-- XOR Vx, Vy (R84) -/
  | xorReg (x y : RegIdx)
  /-- ADD Vx, Vy (R85) -/
  | addReg (x y : RegIdx)
  /-- SUB Vx, Vy (R86) -/
  | subReg (x y : RegIdx)
  /-- SHR Vx {, Vy} (R87) -/
  | shr (x y : RegIdx)
  /-- SUBN Vx, Vy (R88) -/
  | subnReg (x y : RegIdx)
  /-- SHL Vx {, Vy} (R89) -/
  | shl (x y : RegIdx)
  /-- SNE Vx, Vy (R75) -/
  | sneReg (x y : RegIdx)
  /-- LD I, addr (R91) -/
  | ldI (nnn : Addr)
  /-- JP V0, addr (R76) -/
  | jpV0 (nnn : Addr)
  /-- RND Vx, byte, present only with RND_SUPPORTED (R90) -/
  | rnd (x : RegIdx) (kk : Byte)
  /-- DRW Vx, Vy, nibble (R97) -/
  | drw (x y : RegIdx) (n : Fin 16)
  /-- SKP Vx (R102) -/
  | skp (x : RegIdx)
  /-- SKNP Vx (R103) -/
  | sknp (x : RegIdx)
  /-- LD Vx, DT (R105) -/
  | ldVxDt (x : RegIdx)
  /-- LD Vx, K (R104) -/
  | ldVxK (x : RegIdx)
  /-- LD DT, Vx (R106) -/
  | ldDtVx (x : RegIdx)
  /-- LD ST, Vx (R107) -/
  | ldStVx (x : RegIdx)
  /-- ADD I, Vx (R92) -/
  | addI (x : RegIdx)
  /-- LD F, Vx (R96) -/
  | ldF (x : RegIdx)
  /-- LD B, Vx (R93) -/
  | ldB (x : RegIdx)
  /-- LD [I], Vx, the bulk store (R94) -/
  | ldMemVx (x : RegIdx)
  /-- LD Vx, [I], the bulk load (R95) -/
  | ldVxMem (x : RegIdx)
  deriving DecidableEq, Repr

end Sys2Proof
end

