-- ==== Sys2Proof/WellFormed.lean ====
section
/-! DEFINITION. Which instructions exist under a setting of RND_SUPPORTED (spec/30_encoding.md R51, R54; 42_alu.md
R90). Every operand range is carried by its type, so this is the one check left: RND is an instruction only where
the implementation has it. -/

namespace Sys2Proof

/-- The instruction exists: RND only when RND_SUPPORTED is true (R90), every other one always. -/
def Instr.wf (rndSupported : Bool) : Instr → Bool
  | .cls | .ret | .jpAddr _ | .callAddr _ => true
  | .seByte _ _ | .sneByte _ _ | .seReg _ _ | .sneReg _ _ => true
  | .ldByte _ _ | .addByte _ _ | .ldReg _ _ | .orReg _ _ | .andReg _ _ | .xorReg _ _ => true
  | .addReg _ _ | .subReg _ _ | .shr _ _ | .subnReg _ _ | .shl _ _ => true
  | .ldI _ | .jpV0 _ => true
  | .rnd _ _ => rndSupported
  | .drw _ _ _ => true
  | .skp _ | .sknp _ | .ldVxDt _ | .ldVxK _ | .ldDtVx _ | .ldStVx _ => true
  | .addI _ | .ldF _ | .ldB _ | .ldMemVx _ | .ldVxMem _ => true

end Sys2Proof
end

