-- ==== Sys2Proof/Decode.lean ====
section
/-! DEFINITION. The decoder, from the mask-and-match table of spec/30_encoding.md R52 and the fields of R47, total on
every word and on every list of bytes; after it the encoder, from the formats of R48. The bit patterns are the
standard CHIP-8 ones. PRESUMED, log entry 1: the spec marks them "from general knowledge, not in source". -/

namespace Sys2Proof

/-- Why a decoder answers no instruction. -/
inductive DecodeError where
  /-- The word matches no row of R52: it is Unknown (R54). -/
  | unknown (w : Word)
  /-- Fewer than two bytes: an opcode is "two consecutive bytes" (R46). -/
  | truncated
  deriving DecidableEq, Repr

/-! ### The fields of an opcode (R47) -/

/-- x = w[11:8] -/
def fieldX (w : Word) : RegIdx := ⟨(w.extractLsb' 8 4).toNat, (w.extractLsb' 8 4).isLt⟩

/-- y = w[7:4] -/
def fieldY (w : Word) : RegIdx := ⟨(w.extractLsb' 4 4).toNat, (w.extractLsb' 4 4).isLt⟩

/-- n = w[3:0] -/
def fieldN (w : Word) : Fin 16 := ⟨(w.extractLsb' 0 4).toNat, (w.extractLsb' 0 4).isLt⟩

/-- kk = w[7:0] -/
def fieldKK (w : Word) : Byte := w.extractLsb' 0 8

/-- nnn = w[11:0] -/
def fieldNNN (w : Word) : Addr := w.extractLsb' 0 12

/-! ### The decode table (R52) -/

/-- One row of R52: a word w is of this row when `(w & mask) == match`. `rndOnly` marks the row that exists only
with RND_SUPPORTED. `build` puts in the fields the row's format names (R48). -/
structure DecodeRow where
  pattern : Word
  mask : Word
  build : Word → Instr
  rndOnly : Bool := false

/-- `(w & mask) == match` (R52). -/
def DecodeRow.matchesWord (r : DecodeRow) (w : Word) : Bool := (w &&& r.mask) == r.pattern

/-- The row takes part in decoding under this setting of RND_SUPPORTED. -/
def DecodeRow.present (rndSupported : Bool) (r : DecodeRow) : Bool := !r.rndOnly || rndSupported

/-- R52, first half: control flow, literals and the register-pair group. -/
def decodeTableLow : List DecodeRow :=
  [ { pattern := 0x00E0, mask := 0xFFFF, build := fun _ => .cls },
    { pattern := 0x00EE, mask := 0xFFFF, build := fun _ => .ret },
    { pattern := 0x1000, mask := 0xF000, build := fun w => .jpAddr (fieldNNN w) },
    { pattern := 0x2000, mask := 0xF000, build := fun w => .callAddr (fieldNNN w) },
    { pattern := 0x3000, mask := 0xF000, build := fun w => .seByte (fieldX w) (fieldKK w) },
    { pattern := 0x4000, mask := 0xF000, build := fun w => .sneByte (fieldX w) (fieldKK w) },
    { pattern := 0x5000, mask := 0xF00F, build := fun w => .seReg (fieldX w) (fieldY w) },
    { pattern := 0x6000, mask := 0xF000, build := fun w => .ldByte (fieldX w) (fieldKK w) },
    { pattern := 0x7000, mask := 0xF000, build := fun w => .addByte (fieldX w) (fieldKK w) },
    { pattern := 0x8000, mask := 0xF00F, build := fun w => .ldReg (fieldX w) (fieldY w) },
    { pattern := 0x8001, mask := 0xF00F, build := fun w => .orReg (fieldX w) (fieldY w) },
    { pattern := 0x8002, mask := 0xF00F, build := fun w => .andReg (fieldX w) (fieldY w) },
    { pattern := 0x8003, mask := 0xF00F, build := fun w => .xorReg (fieldX w) (fieldY w) },
    { pattern := 0x8004, mask := 0xF00F, build := fun w => .addReg (fieldX w) (fieldY w) },
    { pattern := 0x8005, mask := 0xF00F, build := fun w => .subReg (fieldX w) (fieldY w) },
    { pattern := 0x8006, mask := 0xF00F, build := fun w => .shr (fieldX w) (fieldY w) },
    { pattern := 0x8007, mask := 0xF00F, build := fun w => .subnReg (fieldX w) (fieldY w) },
    { pattern := 0x800E, mask := 0xF00F, build := fun w => .shl (fieldX w) (fieldY w) } ]

/-- R52, second half: from SNE Vx, Vy on. -/
def decodeTableHigh : List DecodeRow :=
  [ { pattern := 0x9000, mask := 0xF00F, build := fun w => .sneReg (fieldX w) (fieldY w) },
    { pattern := 0xA000, mask := 0xF000, build := fun w => .ldI (fieldNNN w) },
    { pattern := 0xB000, mask := 0xF000, build := fun w => .jpV0 (fieldNNN w) },
    { pattern := 0xC000, mask := 0xF000, build := fun w => .rnd (fieldX w) (fieldKK w), rndOnly := true },
    { pattern := 0xD000, mask := 0xF000, build := fun w => .drw (fieldX w) (fieldY w) (fieldN w) },
    { pattern := 0xE09E, mask := 0xF0FF, build := fun w => .skp (fieldX w) },
    { pattern := 0xE0A1, mask := 0xF0FF, build := fun w => .sknp (fieldX w) },
    { pattern := 0xF007, mask := 0xF0FF, build := fun w => .ldVxDt (fieldX w) },
    { pattern := 0xF00A, mask := 0xF0FF, build := fun w => .ldVxK (fieldX w) },
    { pattern := 0xF015, mask := 0xF0FF, build := fun w => .ldDtVx (fieldX w) },
    { pattern := 0xF018, mask := 0xF0FF, build := fun w => .ldStVx (fieldX w) },
    { pattern := 0xF01E, mask := 0xF0FF, build := fun w => .addI (fieldX w) },
    { pattern := 0xF029, mask := 0xF0FF, build := fun w => .ldF (fieldX w) },
    { pattern := 0xF033, mask := 0xF0FF, build := fun w => .ldB (fieldX w) },
    { pattern := 0xF055, mask := 0xF0FF, build := fun w => .ldMemVx (fieldX w) },
    { pattern := 0xF065, mask := 0xF0FF, build := fun w => .ldVxMem (fieldX w) } ]

/-- The decode table (R52). -/
def decodeTable : List DecodeRow := decodeTableLow ++ decodeTableHigh

/-- "The decode function maps a 16-bit word w to exactly one instruction or to Unknown, by the first row of this
table whose `(w & mask) == match` holds" (R52). It depends on w and RND_SUPPORTED alone (R56). -/
def decode (rndSupported : Bool) (w : Word) : Except DecodeError Instr :=
  match decodeTable.find? (fun r => r.present rndSupported && r.matchesWord w) with
  | some r => .ok (r.build w)
  | none => .error (.unknown w)

/-- Decoding from bytes: the byte at the lower address is w[15:8] (20_memory.md R36); the rest of the bytes is
handed back. -/
def decodeBytes (rndSupported : Bool) : List Byte → Except DecodeError (Instr × List Byte)
  | hi :: lo :: rest =>
    match decode rndSupported (hi ++ lo) with
    | .ok i => .ok (i, rest)
    | .error e => .error e
  | [_] => .error .truncated
  | [] => .error .truncated

/-! ### The encoder, from the formats of R48 -/

/-- A register index or a row count as its 4-bit field. -/
def nibble (x : Fin 16) : BitVec 4 := BitVec.ofNat 4 x.val

/-- F_NNN: `g nnn` -/
def formNNN (g : BitVec 4) (nnn : Addr) : Word := g ++ nnn

/-- F_XKK: `g x kk` -/
def formXKK (g : BitVec 4) (x : RegIdx) (kk : Byte) : Word := g ++ nibble x ++ kk

/-- F_XY: `g x y s`; F_XYN is the same shape with n in the place of s -/
def formXY (g : BitVec 4) (x y : RegIdx) (s : BitVec 4) : Word := g ++ nibble x ++ nibble y ++ s

/-- F_X: `g x ss` -/
def formX (g : BitVec 4) (x : RegIdx) (ss : Byte) : Word := g ++ nibble x ++ ss

/-- The word of an instruction (R48 with the fixed nibbles of R51). -/
def encode : Instr → Word
  | .cls => 0x00E0
  | .ret => 0x00EE
  | .jpAddr nnn => formNNN 0x1 nnn
  | .callAddr nnn => formNNN 0x2 nnn
  | .seByte x kk => formXKK 0x3 x kk
  | .sneByte x kk => formXKK 0x4 x kk
  | .seReg x y => formXY 0x5 x y 0x0
  | .ldByte x kk => formXKK 0x6 x kk
  | .addByte x kk => formXKK 0x7 x kk
  | .ldReg x y => formXY 0x8 x y 0x0
  | .orReg x y => formXY 0x8 x y 0x1
  | .andReg x y => formXY 0x8 x y 0x2
  | .xorReg x y => formXY 0x8 x y 0x3
  | .addReg x y => formXY 0x8 x y 0x4
  | .subReg x y => formXY 0x8 x y 0x5
  | .shr x y => formXY 0x8 x y 0x6
  | .subnReg x y => formXY 0x8 x y 0x7
  | .shl x y => formXY 0x8 x y 0xE
  | .sneReg x y => formXY 0x9 x y 0x0
  | .ldI nnn => formNNN 0xA nnn
  | .jpV0 nnn => formNNN 0xB nnn
  | .rnd x kk => formXKK 0xC x kk
  | .drw x y n => formXY 0xD x y (nibble n)
  | .skp x => formX 0xE x 0x9E
  | .sknp x => formX 0xE x 0xA1
  | .ldVxDt x => formX 0xF x 0x07
  | .ldVxK x => formX 0xF x 0x0A
  | .ldDtVx x => formX 0xF x 0x15
  | .ldStVx x => formX 0xF x 0x18
  | .addI x => formX 0xF x 0x1E
  | .ldF x => formX 0xF x 0x29
  | .ldB x => formX 0xF x 0x33
  | .ldMemVx x => formX 0xF x 0x55
  | .ldVxMem x => formX 0xF x 0x65

/-- An opcode as the two bytes memory holds it in, the high byte first (20_memory.md R36). -/
def wordBytes (w : Word) : List Byte := [w.extractLsb' 8 8, w.extractLsb' 0 8]

/-- The instruction the decoder reads from a word numbered as spec/opcode_table.json numbers it. The optional row
(RND, R90) is admitted, so that every row of the table has its instruction; log entry 20. -/
def decodeTableWord (nbits w : Nat) : Option Instr :=
  match decodeBytes true (wordBytes (BitVec.ofNat 16 (w % 2 ^ nbits))) with
  | .ok (i, _) => some i
  | .error _ => none

end Sys2Proof
end

