-- ==== Sys2Proof/Config.lean ====
section
/-! DEFINITION. What an implementation fixes (spec/00_scope.md R11), the parameters the spec leaves to the model
(R12), and the one free value (42_alu.md R90). -/

namespace Sys2Proof.Config

/-- Memory cells: addresses 0..0xFFF (R11). -/
def memSize : Nat := 4096

/-- "ROM load offset" and entry point (R11). -/
def romOffset : Nat := 0x200

/-- The longest ROM: 4096 − 0x200 bytes (R11). -/
def maxRom : Nat := 3584

/-- The bytes of one font glyph (R11). -/
def glyphSize : Nat := 5

/-- The parameters that are read after construction: RND_SUPPORTED, and TICK_THRESHOLD_MS as the quotient
`tickNum / tickDen` (R12). FONT is read by construction alone, so it is an argument of `construct` and no
parameter here. DESIGN CHOICE, log entries 3 and 6. -/
structure Params where
  rndSupported : Bool
  tickNum : Nat
  tickDen : Nat
  deriving DecidableEq, Repr

/-- The defaults of R12: RND_SUPPORTED false, TICK_THRESHOLD_MS 50/3. -/
def Params.default : Params := { rndSupported := false, tickNum := 50, tickDen := 3 }

/-- TICK_THRESHOLD_MS is a positive rational (R12). -/
abbrev Params.wf (p : Params) : Prop := 0 < p.tickNum ∧ 0 < p.tickDen

/-- The default FONT: one row per glyph, 0 to F (20_memory.md R32). PRESUMED, log entry 5: the spec marks the
byte values "from general knowledge, not in source". -/
def defaultGlyphs : List (List Byte) :=
  [ [0xF0, 0x90, 0x90, 0x90, 0xF0],
    [0x20, 0x60, 0x20, 0x20, 0x70],
    [0xF0, 0x10, 0xF0, 0x80, 0xF0],
    [0xF0, 0x10, 0xF0, 0x10, 0xF0],
    [0x90, 0x90, 0xF0, 0x10, 0x10],
    [0xF0, 0x80, 0xF0, 0x10, 0xF0],
    [0xF0, 0x80, 0xF0, 0x90, 0xF0],
    [0xF0, 0x10, 0x20, 0x40, 0x40] ]
  ++
  [ [0xF0, 0x90, 0xF0, 0x90, 0xF0],
    [0xF0, 0x90, 0xF0, 0x10, 0xF0],
    [0xF0, 0x90, 0xF0, 0x90, 0x90],
    [0xE0, 0x90, 0xE0, 0x90, 0xE0],
    [0xF0, 0x80, 0x80, 0x80, 0xF0],
    [0xE0, 0x90, 0x90, 0x90, 0xE0],
    [0xF0, 0x80, 0xF0, 0x80, 0xF0],
    [0xF0, 0x80, 0xF0, 0x80, 0x80] ]

/-- The default FONT's 80 bytes in address order. -/
def defaultFontBytes : List Byte := defaultGlyphs.flatten

/-- The default FONT as the 80-byte parameter of R12. -/
def defaultFont : Vector Byte 80 := ⟨defaultFontBytes.toArray, by decide⟩

/-- The byte RND draws at its n-th execution: "an 8-bit value the model draws afresh at each execution, under no
law" (42_alu.md R90). A free value: it has no body, so nothing can be proved of it. Log entry 4. -/
opaque randomByte : Nat → Byte

end Sys2Proof.Config
end

