-- ==== Sys2Proof/Machine/State.lean ====
section
/-! DEFINITION. The state of the machine (spec/10_state.md R14), the typed errors and their record (60_exceptions.md
R108, R109), and the state after reset (70_reset_and_hazards.md R128). -/

namespace Sys2Proof.Machine

/-- The error kinds: "exactly the five the source lists, plus the model-only Unmodelled" (60_exceptions.md R108). -/
inductive ErrorKind where
  /-- CALL with a full stack -/
  | stackOverflow
  /-- RET with an empty stack -/
  | stackUnderflow
  /-- the fetched word matches no decode row -/
  | unknownOpcode
  /-- a fetch, a memory access, a jump target or a key index outside its range -/
  | outOfBoundsAccess
  /-- construct only: the ROM is longer than 3584 bytes -/
  | romTooLarge
  /-- model only: DRW with n = 0 (R112) -/
  | unmodelled
  deriving DecidableEq, Repr

/-- The detail of an error record: "the first illegal address … the key index … and empty otherwise" (R109). An
address is an unbounded natural number (20_memory.md R34). -/
inductive Detail where
  | empty
  | address (a : Nat)
  | keyIndex (k : Byte)
  deriving DecidableEq, Repr

/-- "record = {kind, pc, opcode, detail}" (R109); `opcode` is none for a fetch failure. -/
structure ErrorRecord where
  kind : ErrorKind
  pc : Word
  opcode : Option Word
  detail : Detail
  deriving DecidableEq, Repr

/-- What a step returns: "either `Ok(w)` … or `Err(record)`" (40_decode_dispatch.md R58). -/
inductive StepResult where
  /-- no step has run since construction (DESIGN CHOICE, log entry 10) -/
  | noStepYet
  | ok (w : Word)
  | err (r : ErrorRecord)
  deriving DecidableEq, Repr

/-- Why a step stops the machine: never. "An error never aborts the machine" (60_exceptions.md R111): every error,
Unmodelled too, is returned to the host by a step that leaves a next state (`State.raise`), so no fault exists.
Log entry 7. -/
inductive Fault where
  deriving DecidableEq, Repr

/-- Why an instruction has no meaning. -/
inductive Refusal where
  /-- Raised by an arm of `exec` whose instruction has no meaning yet; no arm is one. Safe: the model stops. -/
  | notModelled (mnemonic : String)
  deriving DecidableEq, Repr

/-- Memory: the listed (address, byte) pairs, in the canonical form of `Memory.wf`; an unlisted address reads as
`Memory.background` (20_memory.md R30, R31). -/
abbrev Memory := List Host.Cell

/-- The display, "32 rows × 64 columns of a single bit each": row first, then column (10_state.md R23). -/
abbrev Display := Vector (Vector Bool 64) 32

/-- The machine's state. -/
structure State where
  /-- V0..VF (10_state.md R15); VF = `v[15]` (R16) -/
  v : Vector Byte 16
  /-- the index register I (R18) -/
  i : Word
  /-- the program counter (R19) -/
  pc : Word
  /-- the return stack (R21) -/
  stack : Vector Word 16
  /-- the stack pointer, an integer in [0,16] (R22) -/
  sp : Fin 17
  /-- memory (20_memory.md R30) -/
  mem : Memory
  /-- the display (10_state.md R23) -/
  disp : Display
  /-- the keyboard: true means pressed (R24) -/
  keys : Vector Bool 16
  /-- the delay timer (R25) -/
  dt : Byte
  /-- the sound timer (R25) -/
  st : Byte
  /-- the tick accumulator, in milliseconds, unbounded (R26) -/
  acc : Nat
  /-- the parameters of the machine, written by construction alone (00_scope.md R12); log entries 3 and 6 -/
  params : Config.Params
  /-- the sticky fault latch the spec gives a model (60_exceptions.md R113); log entry 9 -/
  faultLatch : Bool
  /-- the model's own: what the last step returned (40_decode_dispatch.md R58); log entry 10 -/
  result : StepResult
  /-- the model's own: the argument instr_pc of `Execute(ins, instr_pc, w)` (R58); log entry 10 -/
  instrPc : Word
  /-- the model's own: the argument w of `Execute(ins, instr_pc, w)` (R58); log entry 10 -/
  opcode : Word
  /-- the model's own: how many random bytes have been drawn (42_alu.md R90); log entry 4 -/
  draws : Nat
  deriving DecidableEq, Repr

/-- Right after construction from an empty ROM with the default parameters (70_reset_and_hazards.md R128, R129). -/
def State.reset : State where
  v := Vector.replicate 16 0
  i := 0
  pc := 0x200
  stack := Vector.replicate 16 0
  sp := 0
  mem := []
  disp := Vector.replicate 32 (Vector.replicate 64 false)
  keys := Vector.replicate 16 false
  dt := 0
  st := 0
  acc := 0
  params := Config.Params.default
  faultLatch := false
  result := .noStepYet
  instrPc := 0
  opcode := 0
  draws := 0

end Sys2Proof.Machine
end

