-- ==== Sys2Proof/Machine/Ops.lean ====
section
/-! DEFINITION. The named operations over memory, registers, the stack, the keyboard and the program counter; raising
an error as one shared operation; fetching (spec/20_memory.md, 40_decode_dispatch.md R59, R60, 60_exceptions.md R109,
R110). -/

namespace Sys2Proof.Machine

/-! ### Memory (20_memory.md R30 to R39) -/

/-- What an address reads as that nothing is listed for: the contents after construction with the default FONT,
that is the font at 0..79 and 0 elsewhere (20_memory.md R31, R32). Log entry 5. -/
def Memory.background (a : Nat) : Byte := Config.defaultFontBytes.getD a 0

/-- `MemRead(a, 1)` (00_scope.md section 6). -/
def Memory.read (m : Memory) (a : Nat) : Byte :=
  match m with
  | [] => Memory.background a
  | (b, v) :: rest => if a = b then v else Memory.read rest a

/-- The list with the pair (a, v) in its sorted place, in the place of an older pair for a. -/
def Memory.listed (m : Memory) (a : Nat) (v : Byte) : Memory :=
  match m with
  | [] => [(a, v)]
  | (b, u) :: rest =>
    if a < b then (a, v) :: (b, u) :: rest
    else if a = b then (a, v) :: rest
    else (b, u) :: Memory.listed rest a v

/-- The list without a pair for a. -/
def Memory.unlisted (m : Memory) (a : Nat) : Memory :=
  match m with
  | [] => []
  | (b, u) :: rest => if a = b then rest else (b, u) :: Memory.unlisted rest a

/-- `MemWrite(a, 1, v)` (00_scope.md section 6), keeping the canonical form. -/
def Memory.write (m : Memory) (a : Nat) (v : Byte) : Memory :=
  if v = Memory.background a then m.unlisted a else m.listed a v

/-- The canonical form: addresses strictly rising and inside 0..0xFFF (R30), no entry equal to what an unlisted
address reads as. -/
abbrev Memory.wf (m : Memory) : Prop :=
  m.Pairwise (fun c d => c.1 < d.1) ∧ ∀ c ∈ m, c.1 < Config.memSize ∧ c.2 ≠ Memory.background c.1

/-- Bytes written one by one at base, base + 1, … (R38: every data access is a sequence of bytes). -/
def Memory.storeBytes (m : Memory) (base : Nat) (bytes : List Byte) : Memory :=
  match bytes with
  | [] => m
  | b :: rest => Memory.storeBytes (m.write base b) (base + 1) rest

/-- The `count` bytes read at base, base + 1, … -/
def Memory.loadBytes (m : Memory) (base count : Nat) : List Byte :=
  match count with
  | 0 => []
  | k + 1 => m.read base :: Memory.loadBytes m (base + 1) k

/-- The first illegal address of the accesses base, base + 1, …, if the last one is beyond 0xFFF: `max(base,
0x1000)` (R33; 43_memory_index.md R93 to R95). Addresses are unbounded, never wrapped (R34). -/
def firstIllegal (base last : Nat) : Option Nat :=
  if last > 0xFFF then some (max base 0x1000) else none

/-! ### Registers and the program counter (10_state.md R15, R19) -/

/-- `V[r]` -/
def State.reg (s : State) (r : RegIdx) : Byte := s.v[r.val]

/-- `V[r] <- b` -/
def State.setReg (s : State) (r : RegIdx) (b : Byte) : State := { s with v := s.v.set r.val b }

/-- `I <- w` -/
def State.setI (s : State) (w : Word) : State := { s with i := w }

/-- `PC <- w` -/
def State.setPc (s : State) (w : Word) : State := { s with pc := w }

/-- "Skip: an extra advance of PC by 2" when the condition holds (41_control_flow.md R72). -/
def State.skipIf (s : State) (c : Bool) : State := { s with pc := if c then s.pc + 2 else s.pc }

/-- `PC <- PC - 2`: the key wait's roll-back (45_keyboard_timer.md R104). -/
def State.rollBack (s : State) : State := { s with pc := s.pc - 2 }

/-- `MemRead(a, 1)` of the machine's memory. -/
def State.readByte (s : State) (a : Nat) : Byte := s.mem.read a

/-! ### Raising an error: the one way an instruction or a step fails (60_exceptions.md R109 to R113) -/

/-- End the step with `Err(record)`: the record is returned to the host, the model's sticky latch is set (R113), and
nothing else changes (R110). The machine goes on (R111). -/
def State.raise (s : State) (r : ErrorRecord) : State :=
  { s with result := .err r, faultLatch := true }

/-- `raise E(instr_pc, w, detail)` inside an instruction: the record holds instr_pc and w (R109). -/
def State.raiseHere (s : State) (kind : ErrorKind) (detail : Detail) : State :=
  s.raise { kind := kind, pc := s.instrPc, opcode := some s.opcode, detail := detail }

/-- `done` if every byte of the access of `count` bytes at I exists, else OutOfBoundsAccess with the first illegal
address; the check is made before anything is read or written (20_memory.md R33, 60_exceptions.md R110). -/
def State.checkIndexed (s : State) (count : Nat) (done : State) : State :=
  match firstIllegal s.i.toNat (s.i.toNat + count - 1) with
  | some a => s.raiseHere .outOfBoundsAccess (.address a)
  | none => done

/-! ### The return stack (10_state.md R21, R22) -/

/-- `Stack[SP] <- w; SP <- SP + 1`, for a stack that is not full. -/
def State.push (s : State) (w : Word) (h : s.sp.val < 16) : State :=
  { s with stack := s.stack.set s.sp.val w, sp := ⟨s.sp.val + 1, by omega⟩ }

/-- `SP <- SP - 1; PC <- Stack[SP]`, for a stack that is not empty; the entry keeps its value (R21). -/
def State.popPc (s : State) (h : 0 < s.sp.val) : State :=
  { s with sp := ⟨s.sp.val - 1, by omega⟩, pc := s.stack[s.sp.val - 1]'(by omega) }

/-! ### The keyboard (10_state.md R24) -/

/-- `Key[k]` -/
def State.key (s : State) (k : Fin 16) : Bool := s.keys[k.val]

/-- The lowest pressed key, if any: the ascending scan of 45_keyboard_timer.md R104. -/
def State.firstKey (s : State) : Option (Fin 16) := (List.finRange 16).find? (fun k => s.key k)

/-! ### The display (10_state.md R23) -/

/-- `Disp[row][col]` -/
def Display.pixel (d : Display) (row : Fin 32) (col : Fin 64) : Bool := d[row.val][col.val]

/-- `Disp[row][col] <- b` -/
def Display.setPixel (d : Display) (row : Fin 32) (col : Fin 64) (b : Bool) : Display :=
  d.set row.val (d[row.val].set col.val b)

/-- All 2048 pixels 0 (41_control_flow.md R68). -/
def Display.blank : Display := Vector.replicate 32 (Vector.replicate 64 false)

/-! ### Fetch and the advance of PC (40_decode_dispatch.md R59, R60) -/

/-- The opcode at PC, big-endian, or the first illegal address when the second byte is beyond 0xFFF (R59). -/
def State.fetchWord (s : State) : Except Nat Word :=
  let p := s.pc.toNat
  if p + 1 > 0xFFF then .error (if p > 0xFFF then p else p + 1)
  else .ok (s.mem.read p ++ s.mem.read (p + 1))

/-- A fetch failure: OutOfBoundsAccess "and no opcode, and nothing else happens: PC keeps the value instr_pc" (R59). -/
def State.failFetch (s : State) (a : Nat) : State :=
  s.raise { kind := .outOfBoundsAccess, pc := s.pc, opcode := none, detail := .address a }

/-- After a successful fetch of w: PC <- instr_pc + 2 (R60), the arguments instr_pc and w of `Execute(ins,
instr_pc, w)` are kept for the instruction, and the step returns `Ok(w)` (R58) unless the instruction raises. -/
def State.beginStep (s : State) (w : Word) : State :=
  { s with pc := s.pc + 2, instrPc := s.pc, opcode := w, result := .ok w }

end Sys2Proof.Machine
end

