-- ==== Sys2Proof/Machine/Flags.lean ====
section
/-! DEFINITION. The flag computations (spec/10_state.md R16, 42_alu.md R78) and the order of the two writes of a
flag-writing instruction: the result first, VF last. -/

namespace Sys2Proof.Machine

/-- The flag register VF (R16). -/
def vf : RegIdx := 15

/-- A flag as the byte VF receives. -/
def flagByte (b : Bool) : Byte := if b then 1 else 0

/-- Carry: "exactly when the unwrapped sum exceeds 255" (R78). -/
def carry (a b : Byte) : Bool := a.toNat + b.toNat > 255

/-- No borrow: "exactly when … minuend >= subtrahend" (R78). -/
def noBorrow (minuend subtrahend : Byte) : Bool := minuend.toNat ≥ subtrahend.toNat

/-- The bit a right shift by one loses: bit 0 (R87). -/
def lowBit (a : Byte) : Bool := a.getLsbD 0

/-- The bit a left shift by one loses: bit 7 (R89). -/
def highBit (a : Byte) : Bool := a.getLsbD 7

/-- `V[x] <- r; V[15] <- flag`: the flag is written last, so it is what VF holds when x = 15 (R16). -/
def State.setRegFlag (s : State) (x : RegIdx) (r : Byte) (flag : Bool) : State :=
  (s.setReg x r).setReg vf (flagByte flag)

end Sys2Proof.Machine
end

