-- ==== Sys2Proof/Machine/Operands.lean ====
section
/-! DEFINITION. Operand forms (spec/30_encoding.md R49): every operand is unsigned and zero-extended to the width of
its use, never scaled or sign-extended. -/

namespace Sys2Proof.Machine

/-- `zext_16(nnn)`: a 12-bit address as written to PC or I (R49). -/
def zext12 (nnn : Addr) : Word := nnn.zeroExtend 16

/-- `zext_16(b)`: a register as added into I (43_memory_index.md R92). -/
def zext8 (b : Byte) : Word := b.zeroExtend 16

/-- The target of JP V0, addr as an unbounded number: "0 .. 0x10FE, no wrap" (41_control_flow.md R76). -/
def offsetTarget (nnn : Addr) (v0 : Byte) : Nat := nnn.toNat + v0.toNat

/-- The key a register value names, if there is one: key codes are 0..15 (45_keyboard_timer.md R102). -/
def keyOf (b : Byte) : Option (Fin 16) := if h : b.toNat < 16 then some ⟨b.toNat, h⟩ else none

/-- The font address of a digit: "5 * zext_16(V[x])", no mask (43_memory_index.md R96). -/
def fontAddress (b : Byte) : Word := BitVec.ofNat 16 (Config.glyphSize * b.toNat)

/-- The three decimal digits of a byte: hundreds, tens, ones (43_memory_index.md R93). -/
def decimalDigits (b : Byte) : List Byte :=
  [BitVec.ofNat 8 (b.toNat / 100), BitVec.ofNat 8 (b.toNat / 10 % 10), BitVec.ofNat 8 (b.toNat % 10)]

/-- V0..Vx in order (43_memory_index.md R94). -/
def State.regsUpTo (s : State) (x : RegIdx) : List Byte := s.v.toList.take (x.val + 1)

/-- `wrap16(I + x + 1)`: the post-increment of the bulk forms (43_memory_index.md R94, R95). -/
def indexAfter (i : Word) (x : RegIdx) : Word := i + BitVec.ofNat 16 (x.val + 1)

/-- The starting column of a sprite, V[x] mod 64 (44_draw.md R97). -/
def spriteColumn (b : Byte) : Nat := b.toNat % 64

/-- The starting row of a sprite, V[y] mod 32 (44_draw.md R97). -/
def spriteRow (b : Byte) : Nat := b.toNat % 32

end Sys2Proof.Machine
end

