-- ==== Sys2Proof/Machine/Control.lean ====
section
/-! DEFINITION. The control-flow group (spec/41_control_flow.md). Every meaning starts with PC = instr_pc + 2 already
written (40_decode_dispatch.md R60). -/

namespace Sys2Proof.Machine

/-- CLS (R68): all 2048 pixels 0. -/
def execCls (s : State) : Host.Outcome State Fault Refusal :=
  .next { s with disp := Display.blank }

/-- RET (R69). -/
def execRet (s : State) : Host.Outcome State Fault Refusal :=
  if h : 0 < s.sp.val then .next (s.popPc h)
  else .next (s.raiseHere .stackUnderflow .empty)

/-- JP addr (R70). -/
def execJpAddr (nnn : Addr) (s : State) : Host.Outcome State Fault Refusal :=
  .next (s.setPc (zext12 nnn))

/-- CALL addr (R71): the pushed value is the already advanced PC. -/
def execCallAddr (nnn : Addr) (s : State) : Host.Outcome State Fault Refusal :=
  if h : s.sp.val < 16 then .next ((s.push s.pc h).setPc (zext12 nnn))
  else .next (s.raiseHere .stackOverflow .empty)

/-- SE Vx, byte (R72). -/
def execSeByte (x : RegIdx) (kk : Byte) (s : State) : Host.Outcome State Fault Refusal :=
  .next (s.skipIf (s.reg x == kk))

/-- SNE Vx, byte (R73). -/
def execSneByte (x : RegIdx) (kk : Byte) (s : State) : Host.Outcome State Fault Refusal :=
  .next (s.skipIf (s.reg x != kk))

/-- SE Vx, Vy (R74). -/
def execSeReg (x y : RegIdx) (s : State) : Host.Outcome State Fault Refusal :=
  .next (s.skipIf (s.reg x == s.reg y))

/-- SNE Vx, Vy (R75). -/
def execSneReg (x y : RegIdx) (s : State) : Host.Outcome State Fault Refusal :=
  .next (s.skipIf (s.reg x != s.reg y))

/-- JP V0, addr (R76): the offset register is always V0; a target beyond 0xFFF is rejected at the jump (the spec's
decision D8, log entry 13). -/
def execJpV0 (nnn : Addr) (s : State) : Host.Outcome State Fault Refusal :=
  if offsetTarget nnn (s.reg 0) > 0xFFF then
    .next (s.raiseHere .outOfBoundsAccess (.address (offsetTarget nnn (s.reg 0))))
  else .next (s.setPc (BitVec.ofNat 16 (offsetTarget nnn (s.reg 0))))

end Sys2Proof.Machine
end

