-- ==== Sys2Proof/Machine/Draw.lean ====
section
/-! DEFINITION. The framebuffer XOR engine (spec/44_draw.md). The two nested loops of R97 carry the display and the
collision flag as a pair. -/

namespace Sys2Proof.Machine

/-- One sprite bit on one pixel: XOR, and a collision when a pixel goes from 1 to 0 (R97). -/
def xorPixel (row : Fin 32) (col : Fin 64) (bit : Bool) (p : Display × Bool) : Display × Bool :=
  if bit then (p.1.setPixel row col (!p.1.pixel row col), p.2 || p.1.pixel row col) else p

/-- `(X + c) mod 64` -/
def wrapCol (X c : Nat) : Fin 64 := ⟨(X + c) % 64, Nat.mod_lt _ (by decide)⟩

/-- `(Y + r) mod 32` -/
def wrapRow (Y r : Nat) : Fin 32 := ⟨(Y + r) % 32, Nat.mod_lt _ (by decide)⟩

/-- Bit 7 − c of a sprite byte: "most-significant bit first" (R97). -/
def spriteBit (b : Byte) (c : Nat) : Bool := b.getLsbD (7 - c)

/-- One sprite row: the bits c = 0..7 at columns (X + c) mod 64. -/
def drawRow (X : Nat) (row : Fin 32) (b : Byte) (p : Display × Bool) : Display × Bool :=
  (List.range 8).foldl (fun q c => xorPixel row (wrapCol X c) (spriteBit b c) q) p

/-- The sprite rows r, r + 1, … at rows (Y + r) mod 32. -/
def drawRows (X Y : Nat) (r : Nat) (sprite : List Byte) (p : Display × Bool) : Display × Bool :=
  match sprite with
  | [] => p
  | b :: rest => drawRows X Y (r + 1) rest (drawRow X (wrapRow Y r) b p)

/-- A whole sprite on a display: the display after, and whether any pixel collided (R97). -/
def drawSprite (d : Display) (X Y : Nat) (sprite : List Byte) : Display × Bool :=
  drawRows X Y 0 sprite (d, false)

/-- DRW with n ≥ 1 and every sprite byte in range: the display drawn, then VF written (R97). -/
def State.blit (s : State) (x y : RegIdx) (n : Fin 16) : State :=
  let p := drawSprite s.disp (spriteColumn (s.reg x)) (spriteRow (s.reg y)) (s.mem.loadBytes s.i.toNat n.val)
  { s with disp := p.1 }.setReg vf (flagByte p.2)

/-- DRW Vx, Vy, nibble (R97). n = 0 raises the model-only Unmodelled (R98, log entry 8), before the memory bound is
checked (40_decode_dispatch.md R63). -/
def execDrw (x y : RegIdx) (n : Fin 16) (s : State) : Host.Outcome State Fault Refusal :=
  if n.val = 0 then .next (s.raiseHere .unmodelled .empty)
  else .next (s.checkIndexed n.val (s.blit x y n))

end Sys2Proof.Machine
end

