-- ==== Sys2Proof/Machine/Index.lean ====
section
/-! DEFINITION. The memory/index group (spec/43_memory_index.md). Every bound check precedes the first write; no rule
of this group writes VF as a flag. -/

namespace Sys2Proof.Machine

/-- LD I, addr (R91). -/
def execLdI (nnn : Addr) (s : State) : Host.Outcome State Fault Refusal :=
  .next (s.setI (zext12 nnn))

/-- ADD I, Vx (R92): wraps modulo 2^16, no flag. -/
def execAddI (x : RegIdx) (s : State) : Host.Outcome State Fault Refusal :=
  .next (s.setI (s.i + zext8 (s.reg x)))

/-- LD B, Vx (R93): three decimal digits at I, I+1, I+2; I is not changed. -/
def execLdB (x : RegIdx) (s : State) : Host.Outcome State Fault Refusal :=
  .next (s.checkIndexed 3 { s with mem := s.mem.storeBytes s.i.toNat (decimalDigits (s.reg x)) })

/-- LD [I], Vx (R94): V0..Vx stored from I on, then I advanced by x + 1. -/
def execLdMemVx (x : RegIdx) (s : State) : Host.Outcome State Fault Refusal :=
  .next (s.checkIndexed (x.val + 1)
    { s with mem := s.mem.storeBytes s.i.toNat (s.regsUpTo x), i := indexAfter s.i x })

/-- V0..Vx replaced by the bytes at I, I+1, …; the other registers kept. -/
def State.loadRegs (s : State) (x : RegIdx) : Vector Byte 16 :=
  Vector.ofFn (fun r : Fin 16 => if r.val ≤ x.val then s.mem.read (s.i.toNat + r.val) else s.reg r)

/-- LD Vx, [I] (R95): V0..Vx loaded from I on, then I advanced by x + 1. -/
def execLdVxMem (x : RegIdx) (s : State) : Host.Outcome State Fault Refusal :=
  .next (s.checkIndexed (x.val + 1) { s with v := s.loadRegs x, i := indexAfter s.i x })

/-- LD F, Vx (R96): the font address of a digit; no memory is read. -/
def execLdF (x : RegIdx) (s : State) : Host.Outcome State Fault Refusal :=
  .next (s.setI (fontAddress (s.reg x)))

end Sys2Proof.Machine
end

