-- ==== Sys2Proof/Machine/KeyTimer.lean ====
section
/-! DEFINITION. The keyboard and timer-linked instructions (spec/45_keyboard_timer.md). They see the key state the
host left before the step began; the timers count down only in the tick. -/

namespace Sys2Proof.Machine

/-- SKP Vx (R102): a register value above 15 names no key (the spec's decision D12, log entry 13). -/
def execSkp (x : RegIdx) (s : State) : Host.Outcome State Fault Refusal :=
  match keyOf (s.reg x) with
  | some k => .next (s.skipIf (s.key k))
  | none => .next (s.raiseHere .outOfBoundsAccess (.keyIndex (s.reg x)))

/-- SKNP Vx (R103). -/
def execSknp (x : RegIdx) (s : State) : Host.Outcome State Fault Refusal :=
  match keyOf (s.reg x) with
  | some k => .next (s.skipIf (!s.key k))
  | none => .next (s.raiseHere .outOfBoundsAccess (.keyIndex (s.reg x)))

/-- LD Vx, K (R104): the lowest pressed key into Vx, or PC back to instr_pc when no key is pressed. -/
def execLdVxK (x : RegIdx) (s : State) : Host.Outcome State Fault Refusal :=
  match s.firstKey with
  | some k => .next (s.setReg x (BitVec.ofNat 8 k.val))
  | none => .next s.rollBack

/-- LD Vx, DT (R105). -/
def execLdVxDt (x : RegIdx) (s : State) : Host.Outcome State Fault Refusal :=
  .next (s.setReg x s.dt)

/-- LD DT, Vx (R106). -/
def execLdDtVx (x : RegIdx) (s : State) : Host.Outcome State Fault Refusal :=
  .next { s with dt := s.reg x }

/-- LD ST, Vx (R107). -/
def execLdStVx (x : RegIdx) (s : State) : Host.Outcome State Fault Refusal :=
  .next { s with st := s.reg x }

end Sys2Proof.Machine
end

