-- ==== Sys2Proof/Machine/Load.lean ====
section
/-! DEFINITION. How a program comes into the machine: construction (spec/70_reset_and_hazards.md R128 to R130), and
placing one instruction where the next step fetches it. Log entries 19 and 22. -/

namespace Sys2Proof.Machine

/-- construct(rom_bytes) with the parameters of 00_scope.md R12: RomTooLarge for a ROM longer than 3584 bytes, and
otherwise the reset state with the FONT at 0..79 and the ROM from 0x200 on (R128, R129). -/
def construct (font : Vector Byte 80) (params : Config.Params) (rom : List Byte) : Except ErrorKind State :=
  if rom.length > Config.maxRom then .error .romTooLarge
  else .ok { State.reset with
    params := params
    mem := (Memory.storeBytes [] 0 font.toList).storeBytes Config.romOffset rom }

/-- PC made fetchable: kept where a fetch succeeds (40_decode_dispatch.md R59), else the load offset. -/
def State.fetchable (s : State) : State :=
  if s.pc.toNat + 1 > 0xFFF then s.setPc (BitVec.ofNat 16 Config.romOffset) else s

/-- RND_SUPPORTED made true for a word of group C, which decodes only then (42_alu.md R90). -/
def State.admitting (s : State) (w : Word) : State :=
  if w.extractLsb' 12 4 = 0xC then { s with params := { s.params with rndSupported := true } } else s

/-- The word's two bytes at PC, PC + 1. -/
def State.placeAtPc (s : State) (w : Word) : State :=
  { s with mem := s.mem.storeBytes s.pc.toNat (wordBytes w) }

end Sys2Proof.Machine
end

