-- ==== Sys2Proof/Machine/Step.lean ====
section
/-! DEFINITION. One step() (spec/40_decode_dispatch.md R58), with its checks in the order of R63. -/

namespace Sys2Proof.Machine

/-- step() (R58): fetch, advance PC, decode, execute. What it returns is `State.result` of the next state. -/
def step (s : State) : Host.Outcome State Fault Refusal :=
  match s.fetchWord with
  | .error a => .next (s.failFetch a)
  | .ok w =>
    match decode s.params.rndSupported w with
    | .error _ => .next ((s.beginStep w).raiseHere .unknownOpcode .empty)
    | .ok i => exec i (s.beginStep w)

/-- s with the word w where the next step fetches it. Changed beside the two bytes: PC, only where no fetch succeeds
at it, and RND_SUPPORTED, only for a word of group C (log entry 19). -/
def State.withFetchWord (s : State) (nbits w : Nat) : State :=
  let word : Word := BitVec.ofNat 16 (w % 2 ^ nbits)
  (s.fetchable.admitting word).placeAtPc word

end Sys2Proof.Machine
end

