-- ==== Sys2Proof/Machine/HostCalls.lean ====
section
/-! DEFINITION. The host's transactions (spec/00_scope.md R9, R10; 60_exceptions.md R119 to R125). construct stands in
Load.lean. The host makes any calls in any order (R9), so a session is any list of them; log entry 18. -/

namespace Sys2Proof.Machine

/-! ### The timer pair (R119 to R122) -/

/-- `ACC > TICK_THRESHOLD_MS`, the threshold being tickNum / tickDen: strictly, and after the addition (R119). -/
def thresholdCrossed (p : Config.Params) (acc : Nat) : Bool := acc * p.tickDen > p.tickNum

/-- `(t > 0) ? t - 1 : 0` (R119): saturating at 0. -/
def countDown (t : Byte) : Byte := if t = 0 then 0 else t - 1

/-- tick(elapsed_ms) (R119). The accumulator is never reset: the defect the source orders reproduced (R120). -/
def tick (elapsed : Nat) (s : State) : State :=
  let acc := s.acc + elapsed
  if thresholdCrossed s.params acc then
    { s with acc := acc, dt := countDown s.dt, st := countDown s.st }
  else { s with acc := acc }

/-- is_sound_active() (R122). -/
def isSoundActive (s : State) : Bool := s.st != 0

/-! ### Keyboard, display and inspection (R123 to R125) -/

/-- set_key(index, pressed) (R123); an index outside 0..15 is no move of the host, so the type has none. -/
def setKey (k : Fin 16) (pressed : Bool) (s : State) : State := { s with keys := s.keys.set k.val pressed }

/-- read_display() (R124). -/
def readDisplay (s : State) : Display := s.disp

/-- The snapshot of read_registers(): "{V[0..15], I, PC, SP, DT, ST}" (R125). -/
structure Registers where
  v : Vector Byte 16
  i : Word
  pc : Word
  sp : Fin 17
  dt : Byte
  st : Byte
  deriving DecidableEq, Repr

/-- read_registers() (R125). -/
def readRegisters (s : State) : Registers :=
  { v := s.v, i := s.i, pc := s.pc, sp := s.sp, dt := s.dt, st := s.st }

/-! ### The interface (00_scope.md R10) -/

/-- A call of the host on a constructed machine. -/
inductive HostCall where
  | step
  | tick (elapsed : Nat)
  | setKey (k : Fin 16) (pressed : Bool)
  | isSoundActive
  | readDisplay
  | readRegisters
  deriving DecidableEq, Repr

/-- What a call returns to the host. -/
inductive Reply where
  /-- tick and set_key return nothing -/
  | nothing
  | stepped (r : StepResult)
  | sound (active : Bool)
  | display (d : Display)
  | registers (r : Registers)
  deriving DecidableEq, Repr

/-- The effect of one call on the machine. -/
def transact (c : HostCall) (s : State) : Host.Outcome State Fault Refusal :=
  match c with
  | .step => step s
  | .tick e => .next (Sys2Proof.Machine.tick e s)
  | .setKey k b => .next (Sys2Proof.Machine.setKey k b s)
  | .isSoundActive => .next s
  | .readDisplay => .next s
  | .readRegisters => .next s

/-- What the call returns, read from the state it leaves (the observation calls leave it as it was). -/
def reply (c : HostCall) (after : State) : Reply :=
  match c with
  | .step => .stepped after.result
  | .tick _ => .nothing
  | .setKey _ _ => .nothing
  | .isSoundActive => .sound (Sys2Proof.Machine.isSoundActive after)
  | .readDisplay => .display (Sys2Proof.Machine.readDisplay after)
  | .readRegisters => .registers (Sys2Proof.Machine.readRegisters after)

/-- A session: the host's calls one after another, each whole (00_scope.md R9). -/
def session (calls : List HostCall) (s : State) : Host.Outcome State Fault Refusal :=
  match calls with
  | [] => .next s
  | c :: rest =>
    match transact c s with
    | .next t => session rest t
    | .fault r => .fault r
    | .refused r => .refused r

end Sys2Proof.Machine
end

