-- ==== Sys2Proof/Safety.lean ====
section
/-! DEFINITION. The terms the claims use: the invariant of the machine, the safe run, and what a step leaves of the
hardware's state (spec/10_state.md R14, R20; 60_exceptions.md R110, R113). -/

namespace Sys2Proof.Machine

/-- PC is in 0..0x1002 (10_state.md R20). -/
abbrev State.pcInRange (s : State) : Prop := s.pc.toNat ≤ 0x1002

/-- Every stack entry in use is a return address an earlier CALL pushed, "hence at most 0x1000" (R20). -/
abbrev State.liveStackInRange (s : State) : Prop :=
  ∀ j : Fin 16, j.val < s.sp.val → (s.stack[j.val]).toNat ≤ 0x1000

/-- The invariant every step and every host call keeps: memory is in its canonical form and lists no address outside
0..0xFFF, PC and the stack entries in use are in their ranges (R20), the threshold is a positive rational (00_scope.md
R12). -/
structure State.Inv (s : State) : Prop where
  mem : s.mem.wf
  pc : s.pcInRange
  stack : s.liveStackInRange
  params : s.params.wf

/-- A run so far without an error: "Claims about a program take 'the latch is clear' as a premise" (R113). -/
abbrev State.safe (s : State) : Prop := s.faultLatch = false

/-- The two states hold the same hardware state but, perhaps, for PC (10_state.md R14's table, PC left out). -/
structure State.SameButPc (s t : State) : Prop where
  v : t.v = s.v
  i : t.i = s.i
  stack : t.stack = s.stack
  sp : t.sp = s.sp
  mem : t.mem = s.mem
  disp : t.disp = s.disp
  keys : t.keys = s.keys
  dt : t.dt = s.dt
  st : t.st = s.st
  acc : t.acc = s.acc

/-- The two states hold the same hardware state (10_state.md R14's table). -/
structure State.SameHardware (s t : State) : Prop where
  rest : State.SameButPc s t
  pc : t.pc = s.pc

/-- The step returned an error, Unmodelled included (60_exceptions.md R109, R112). -/
def StepResult.isErr : StepResult → Bool
  | .noStepYet => false
  | .ok _ => false
  | .err _ => true

/-! ### The rules' tables of what each instruction writes and when it raises -/

/-- r is a named destination register of the instruction (10_state.md R17, without the flag). -/
def isDestination (i : Instr) (r : RegIdx) : Bool :=
  match i with
  | .ldByte x _ | .addByte x _ | .rnd x _ => r == x
  | .ldReg x _ | .orReg x _ | .andReg x _ | .xorReg x _ => r == x
  | .addReg x _ | .subReg x _ | .shr x _ | .subnReg x _ | .shl x _ => r == x
  | .ldVxDt x | .ldVxK x => r == x
  | .ldVxMem x => decide (r ≤ x)
  | .cls | .ret | .jpAddr _ | .callAddr _ | .jpV0 _ => false
  | .seByte _ _ | .sneByte _ _ | .seReg _ _ | .sneReg _ _ | .skp _ | .sknp _ => false
  | .ldI _ | .addI _ | .ldF _ | .ldB _ | .ldMemVx _ | .drw _ _ _ | .ldDtVx _ | .ldStVx _ => false

/-- "The flag-writing instructions are exactly: ADD Vx, Vy …, SUB Vx, Vy …, SHR Vx …, SUBN Vx, Vy …, SHL Vx … and DRW"
(10_state.md R16). -/
def isFlagWriter (i : Instr) : Bool :=
  match i with
  | .addReg _ _ | .subReg _ _ | .shr _ _ | .subnReg _ _ | .shl _ _ | .drw _ _ _ => true
  | .ldByte _ _ | .addByte _ _ | .rnd _ _ | .ldReg _ _ | .orReg _ _ | .andReg _ _ | .xorReg _ _ => false
  | .cls | .ret | .jpAddr _ | .callAddr _ | .jpV0 _ => false
  | .seByte _ _ | .sneByte _ _ | .seReg _ _ | .sneReg _ _ | .skp _ | .sknp _ => false
  | .ldI _ | .addI _ | .ldF _ | .ldB _ | .ldMemVx _ | .ldVxMem _ => false
  | .ldVxDt _ | .ldVxK _ | .ldDtVx _ | .ldStVx _ => false

/-- An access of `count` bytes at I that does not fit 0..0xFFF (60_exceptions.md R108): its error. -/
def indexedError (s : State) (count : Nat) : Option (ErrorKind × Detail) :=
  if s.i.toNat + count > 0x1000 then some (.outOfBoundsAccess, .address (max s.i.toNat 0x1000)) else none

/-- The error the instruction raises in this state, if any: the table of 60_exceptions.md R108 with the details of
R109. "No other instruction raises an error." -/
def errorOf (i : Instr) (s : State) : Option (ErrorKind × Detail) :=
  match i with
  | .callAddr _ => if s.sp.val = 16 then some (.stackOverflow, .empty) else none
  | .ret => if s.sp.val = 0 then some (.stackUnderflow, .empty) else none
  | .drw _ _ n => if n.val = 0 then some (.unmodelled, .empty) else indexedError s n.val
  | .ldB _ => indexedError s 3
  | .ldMemVx x => indexedError s (x.val + 1)
  | .ldVxMem x => indexedError s (x.val + 1)
  | .jpV0 nnn =>
    if nnn.toNat + (s.reg 0).toNat > 0xFFF then
      some (.outOfBoundsAccess, .address (nnn.toNat + (s.reg 0).toNat)) else none
  | .skp x => if (s.reg x).toNat > 15 then some (.outOfBoundsAccess, .keyIndex (s.reg x)) else none
  | .sknp x => if (s.reg x).toNat > 15 then some (.outOfBoundsAccess, .keyIndex (s.reg x)) else none
  | .cls | .jpAddr _ | .seByte _ _ | .sneByte _ _ | .seReg _ _ | .sneReg _ _ => none
  | .ldByte _ _ | .addByte _ _ | .ldReg _ _ | .orReg _ _ | .andReg _ _ | .xorReg _ _ | .rnd _ _ => none
  | .addReg _ _ | .subReg _ _ | .shr _ _ | .subnReg _ _ | .shl _ _ => none
  | .ldI _ | .addI _ | .ldF _ | .ldVxDt _ | .ldVxK _ | .ldDtVx _ | .ldStVx _ => none

/-- The sprite's bit on the pixel (col, row) when DRW Vx, Vy, n runs in s: row r of the sprite lies at (Y + r) mod 32,
its bit 7 − c at column (X + c) mod 64 (44_draw.md R97). -/
def spriteBitAt (s : State) (x y : RegIdx) (n : Fin 16) (row : Fin 32) (col : Fin 64) : Bool :=
  let r := (row.val + 32 - (s.reg y).toNat % 32) % 32
  let c := (col.val + 64 - (s.reg x).toNat % 64) % 64
  decide (r < n.val) && decide (c < 8) && (s.readByte (s.i.toNat + r)).getLsbD (7 - c)

/-- Instructions executed one after another, for claims about nesting. -/
def runInstrs (is : List Instr) (s : State) : Host.Outcome State Fault Refusal :=
  match is with
  | [] => .next s
  | i :: rest =>
    match exec i s with
    | .next t => runInstrs rest t
    | .fault r => .fault r
    | .refused r => .refused r

/-- s can be reached from a construct by host calls (70_reset_and_hazards.md R132). -/
def State.Reachable (s : State) : Prop :=
  ∃ font params rom s₀ calls,
    construct font params rom = .ok s₀ ∧ session calls s₀ = .next s

end Sys2Proof.Machine
end

