-- ==== Sys2Proof/Certificates/Slice0/Obligations.lean ====
section
/-! DEFINITION. The statements for the provers. A statement whose docstring names a decision Dn of
spec/92_eei_decisions.md, a "[derived]" rule or a log entry rests on it; the others are the source's own rules. In every
statement about `exec`, s is the state on entry, with PC = instr_pc + 2 already written (40_decode_dispatch.md R60). -/

open Sys2Proof Sys2Proof.Machine

/-! ### Encoding and decoding -/

/-- Words written out bit by bit from the encodings of 30_encoding.md R52, at least one of each family. The bit patterns
are the spec's "[from general knowledge, not in source]" (D1, D2; log entry 1). -/
def Obligations.SpecWordsDecode : Prop :=
  decode false 0b0000000011100000 = .ok .cls ∧
  decode false 0b0010001000001100 = .ok (.callAddr 0x20C) ∧
  decode false 0b1000000100100100 = .ok (.addReg 1 2) ∧
  decode false 0b0111001100010000 = .ok (.addByte 3 0x10) ∧
  decode false 0b1111001001100101 = .ok (.ldVxMem 2) ∧
  decode false 0b1101000000010101 = .ok (.drw 0 1 5) ∧
  decode false 0b1110010010011110 = .ok (.skp 4) ∧
  decode false 0b1111000000010101 = .ok (.ldDtVx 0)

/-- Decoding the word an instruction is encoded as gives the instruction back, with every operand at every value its
field admits; an instruction that does not exist under this setting of RND_SUPPORTED decodes to Unknown (D1 to D4; log
entries 1 to 3). -/
def Obligations.DecodeOfEncodeIsIdentity : Prop :=
  ∀ (rnd : Bool) (i : Instr),
    (i.wf rnd = true → decode rnd (encode i) = .ok i) ∧
    (i.wf rnd = false → decode rnd (encode i) = .error (.unknown (encode i)))

/-- A word that decodes is the encoding of the instruction it decodes to, and that instruction exists (D1, D2; log
entry 1): no two words mean one instruction, and no bit of a word is dropped. -/
def Obligations.EncodeOfDecodeIsIdentity : Prop :=
  ∀ (rnd : Bool) (w : Word) (i : Instr), decode rnd w = .ok i → encode i = w ∧ i.wf rnd = true

/-- The list of 30_encoding.md R54, word for word: which words are Unknown. Every other word decodes. Rests on the
spec's decisions D3 and D4 (log entries 2, 3). -/
def Obligations.UnknownWordsAreExactlyThese : Prop :=
  ∀ (rnd : Bool) (w : Word),
    let g := w.toNat / 4096
    let n := w.toNat % 16
    let kk := w.toNat % 256
    let unknown : Prop :=
      (g = 0 ∧ w.toNat ≠ 0x00E0 ∧ w.toNat ≠ 0x00EE) ∨ ((g = 5 ∨ g = 9) ∧ n ≠ 0) ∨
      (g = 8 ∧ n ∈ [8, 9, 0xA, 0xB, 0xC, 0xD, 0xF]) ∨ (g = 0xC ∧ rnd = false) ∨
      (g = 0xE ∧ kk ∉ [0x9E, 0xA1]) ∨
      (g = 0xF ∧ kk ∉ [0x07, 0x0A, 0x15, 0x18, 0x1E, 0x29, 0x33, 0x55, 0x65])
    (unknown → decode rnd w = .error (.unknown w)) ∧ (¬ unknown → ∃ i, decode rnd w = .ok i)

/-- "the rows are disjoint, so the order does not change the result" (30_encoding.md R52; the patterns are D2's, log
entry 1): two places of the decode table whose rows match one word are the same place. -/
def Obligations.AtMostOneDecodeRowMatches : Prop :=
  ∀ (w : Word) (j k : Fin decodeTable.length),
    decodeTable[j.val].matchesWord w = true → decodeTable[k.val].matchesWord w = true → j = k

/-! ### The step -/

/-- When the two bytes at PC decode to an instruction, the step is that instruction's execution from the state in which
PC has advanced by 2 and instr_pc, w and the pending Ok(w) are noted; when they decode to none, the step raises
UnknownOpcode with instr_pc and w and leaves PC = instr_pc + 2 (40_decode_dispatch.md R58, R60; 30_encoding.md R54). The
fields instrPc, opcode and result are the model's own (log entry 10). -/
def Obligations.StepRunsDecodedInstruction : Prop :=
  ∀ (s : State), s.pc.toNat + 1 ≤ 0xFFF →
    let w : Word := s.readByte s.pc.toNat ++ s.readByte (s.pc.toNat + 1)
    (∀ i, decode s.params.rndSupported w = .ok i →
      step s = exec i { s with pc := s.pc + 2, instrPc := s.pc, opcode := w, result := .ok w }) ∧
    (∀ e, decode s.params.rndSupported w = .error e →
      step s = .next { s with
        pc := s.pc + 2, instrPc := s.pc, opcode := w, faultLatch := true
        result := .err { kind := .unknownOpcode, pc := s.pc, opcode := some w, detail := .empty } })

/-- A fetch whose second byte lies beyond 0xFFF raises OutOfBoundsAccess with the first illegal address and no opcode,
and PC keeps its value (40_decode_dispatch.md R59, the spec's decision D7; log entry 13). -/
def Obligations.FetchBeyondMemoryRaises : Prop :=
  ∀ (s : State), s.pc.toNat + 1 > 0xFFF →
    step s = .next { s with
      faultLatch := true
      result := .err {
        kind := .outOfBoundsAccess, pc := s.pc, opcode := none
        detail := .address (if s.pc.toNat > 0xFFF then s.pc.toNat else s.pc.toNat + 1) } }

/-- No step stops the machine: whatever the state, it leaves a next state, which has returned Ok or Err
(60_exceptions.md R111 and its decision D6; log entry 7). -/
def Obligations.StepAlwaysGoesOn : Prop :=
  ∀ (s : State), ∃ t, step s = .next t ∧ t.result ≠ .noStepYet

/-- A failed step changes no hardware state but PC, which a fetch failure keeps and every later error leaves at
instr_pc + 2; its record holds instr_pc and the fetched word (60_exceptions.md R109, R110, decisions D6 and D25; log
entries 11, 12). -/
def Obligations.FailedStepChangesOnlyPc : Prop :=
  ∀ (s t : State), step s = .next t → t.result.isErr = true →
    State.SameButPc s t ∧ t.params = s.params ∧ t.draws = s.draws ∧
    ∃ r, t.result = .err r ∧ r.pc = s.pc ∧
      ((s.pc.toNat + 1 > 0xFFF ∧ r.opcode = none ∧ t.pc = s.pc) ∨
       (s.pc.toNat + 1 ≤ 0xFFF ∧ t.pc = s.pc + 2 ∧
        r.opcode = some (s.readByte s.pc.toNat ++ s.readByte (s.pc.toNat + 1))))

/-- The sticky latch: set by a step that returns Err (Unmodelled included), otherwise kept, so never cleared; a step that
does not return Err returns Ok of the fetched word. No other host call writes it (60_exceptions.md R113, the spec's
decision D23; log entry 9). -/
def Obligations.FaultLatchIsSticky : Prop :=
  (∀ (s t : State), step s = .next t →
    t.faultLatch = (s.faultLatch || t.result.isErr) ∧
    (t.result.isErr = false → t.result = .ok (s.readByte s.pc.toNat ++ s.readByte (s.pc.toNat + 1)))) ∧
  (∀ (c : HostCall) (s t : State), c ≠ .step → transact c s = .next t → t.faultLatch = s.faultLatch)

/-- The table of 60_exceptions.md R108, with the record of R109 and the state effects of R110, over every instruction:
it raises exactly the error the table gives it in this state and then changes nothing else, and it leaves what the step
returns and the latch alone when the table gives it none (decisions D6 to D8, D11, D12, D25; log entries 8, 11 to 13). -/
def Obligations.InstructionRaisesExactlyWhen : Prop :=
  ∀ (i : Instr) (s : State), ∃ t, exec i s = .next t ∧
    (∀ k d, errorOf i s = some (k, d) → t = { s with
      faultLatch := true
      result := .err { kind := k, pc := s.instrPc, opcode := some s.opcode, detail := d } }) ∧
    (errorOf i s = none → t.result = s.result ∧ t.faultLatch = s.faultLatch)

/-! ### What each kind of state is written by -/

/-- The table of 10_state.md R17, which the spec marks "[derived]": a register that is no destination of the
instruction, and is not VF under a flag-writing one, is unchanged; LD Vx, K writes none when no key is pressed. -/
def Obligations.RegistersWrittenByEachInstruction : Prop :=
  ∀ (i : Instr) (s : State), ∃ t, exec i s = .next t ∧
    (∀ r, isDestination i r = false → (isFlagWriter i && r == 15) = false → t.reg r = s.reg r) ∧
    (∀ x, i = .ldVxK x → (∀ k, s.key k = false) → t.v = s.v)

/-- VF is left alone by every instruction that is no flag writer and does not name it as a destination; a flag writer
that completes leaves 0 or 1 in it; and when x = 15 the flag, written last, is what VF holds (10_state.md R16). -/
def Obligations.FlagRegisterWrittenOnlyAsFlagOrDestination : Prop :=
  ∀ (s : State),
    (∀ i, ∃ t, exec i s = .next t ∧
      (isFlagWriter i = false → isDestination i 15 = false → t.reg 15 = s.reg 15) ∧
      (isFlagWriter i = true → errorOf i s = none → t.reg 15 = 0 ∨ t.reg 15 = 1)) ∧
    (∀ y, ∃ t, exec (.addReg 15 y) s = .next t ∧
      t.reg 15 = if (s.reg 15).toNat + (s.reg y).toNat > 255 then 1 else 0) ∧
    (∀ y, ∃ t, exec (.subReg 15 y) s = .next t ∧
      t.reg 15 = if (s.reg 15).toNat ≥ (s.reg y).toNat then 1 else 0) ∧
    (∀ y, ∃ t, exec (.subnReg 15 y) s = .next t ∧
      t.reg 15 = if (s.reg y).toNat ≥ (s.reg 15).toNat then 1 else 0) ∧
    (∀ y, ∃ t, exec (.shr 15 y) s = .next t ∧ (t.reg 15).toNat = (s.reg 15).toNat % 2) ∧
    (∀ y, ∃ t, exec (.shl 15 y) s = .next t ∧ (t.reg 15).toNat = (s.reg 15).toNat / 128)

/-- The value of I after every instruction: written by five of them, as their rules say, and by no other (10_state.md
R18 with 43_memory_index.md R91, R92, R94 to R96; the wrap modulo 2^16 and the unmasked digit are the decisions D9 and
D24, log entry 14). A bulk form that raises leaves I. -/
def Obligations.IndexRegisterAfterEachInstruction : Prop :=
  ∀ (i : Instr) (s : State), ∃ t, exec i s = .next t ∧
    t.i.toNat = match i with
      | .ldI nnn => nnn.toNat
      | .addI x => (s.i.toNat + (s.reg x).toNat) % 65536
      | .ldF x => 5 * (s.reg x).toNat
      | .ldMemVx x => if s.i.toNat + x.val > 0xFFF then s.i.toNat else (s.i.toNat + x.val + 1) % 65536
      | .ldVxMem x => if s.i.toNat + x.val > 0xFFF then s.i.toNat else (s.i.toNat + x.val + 1) % 65536
      | _ => s.i.toNat

/-- The stack and its pointer after every instruction: CALL writes the entry at SP and adds 1, RET takes 1 off and keeps
the popped entry (decision D19, log entry 16), both leave them at their bounds, no other instruction writes them
(10_state.md R21, R22). -/
def Obligations.StackWrittenOnlyByCallAndRet : Prop :=
  ∀ (i : Instr) (s : State), ∃ t, exec i s = .next t ∧
    (∀ j : Fin 16, t.stack[j.val] = match i with
      | .callAddr _ => if j.val = s.sp.val then s.pc else s.stack[j.val]
      | _ => s.stack[j.val]) ∧
    t.sp.val = match i with
      | .callAddr _ => if s.sp.val = 16 then 16 else s.sp.val + 1
      | .ret => if s.sp.val = 0 then 0 else s.sp.val - 1
      | _ => s.sp.val

/-- "The display is written by CLS and DRW only …; the host reads it through read_display … and cannot write it"
(44_draw.md R101). -/
def Obligations.DisplayWrittenOnlyByClsAndDrw : Prop :=
  ∀ (c : HostCall) (s : State), ∃ t, transact c s = .next t ∧
    (t.disp ≠ s.disp → c = .step ∧
      ∃ i, decode s.params.rndSupported (s.readByte s.pc.toNat ++ s.readByte (s.pc.toNat + 1)) = .ok i ∧
        (i = .cls ∨ ∃ x y n, i = .drw x y n)) ∧
    (c = .readDisplay → reply c t = .display s.disp ∧ t = s)

/-- The writes of 20_memory.md R38's table: LD B stores to I, I+1, I+2 and LD [I], Vx to I .. I+x, each only when the
whole access exists (decision D6, log entry 12); every other byte reads as before, and every other instruction leaves
memory as it is. -/
def Obligations.MemoryWrittenOnlyByStores : Prop :=
  ∀ (i : Instr) (s : State), ∃ t, exec i s = .next t ∧
    match i with
    | .ldB _ =>
      (∀ a, a < s.i.toNat ∨ s.i.toNat + 2 < a → t.readByte a = s.readByte a) ∧
      (s.i.toNat + 2 > 0xFFF → t.mem = s.mem)
    | .ldMemVx x =>
      (∀ a, a < s.i.toNat ∨ s.i.toNat + x.val < a → t.readByte a = s.readByte a) ∧
      (s.i.toNat + x.val > 0xFFF → t.mem = s.mem)
    | _ => t.mem = s.mem

/-- "A step never writes the keyboard state, never writes ACC and never decrements DT or ST …  A step writes DT only
through LD DT, Vx and ST only through LD ST, Vx. A step that raises an error writes nothing but the PC advance"
(40_decode_dispatch.md R64). -/
def Obligations.StepLeavesKeysAccumulatorAndTimers : Prop :=
  ∀ (s : State), ∃ t, step s = .next t ∧
    let decoded := decode s.params.rndSupported (s.readByte s.pc.toNat ++ s.readByte (s.pc.toNat + 1))
    t.keys = s.keys ∧ t.acc = s.acc ∧
    (t.dt = s.dt ∨ ∃ x, decoded = .ok (.ldDtVx x) ∧ t.dt = s.reg x) ∧
    (t.st = s.st ∨ ∃ x, decoded = .ok (.ldStVx x) ∧ t.st = s.reg x) ∧
    (t.result.isErr = true → State.SameButPc s t ∧ (t.pc = s.pc ∨ t.pc = s.pc + 2))

/-! ### The invariant -/

/-- The invariant holds right after reset. -/
def Obligations.ResetMeetsInvariant : Prop := State.reset.Inv

/-- The invariant holds after every successful construct with a positive threshold, whatever the FONT and the ROM. -/
def Obligations.ConstructMeetsInvariant : Prop :=
  ∀ (font : Vector Byte 80) (params : Config.Params) (rom : List Byte) (s : State),
    params.wf → construct font params rom = .ok s → s.Inv

/-- Every step keeps the invariant: the memory's canonical form, PC in 0..0x1002 and the stack entries in use at most
0x1000 (10_state.md R20, which the spec marks "[derived]"). -/
def Obligations.StepKeepsInvariant : Prop :=
  ∀ (s t : State), s.Inv → step s = .next t → t.Inv

/-- Whatever calls the host makes, in whatever order, the machine goes on and the invariant holds at the end
(00_scope.md R9, decision D15, log entry 18; 10_state.md R20). -/
def Obligations.EverySessionKeepsInvariant : Prop :=
  ∀ (calls : List HostCall) (s : State), s.Inv → ∃ t, session calls s = .next t ∧ t.Inv ∧ t.params = s.params

/-! ### The control-flow group -/

/-- CLS (41_control_flow.md R68): all 2048 pixels 0 and nothing else changed. -/
def Obligations.ClsBlanksDisplay : Prop :=
  ∀ (s : State), ∃ t, exec .cls s = .next t ∧ t = { s with disp := t.disp } ∧
    ∀ row col, t.disp.pixel row col = false

/-- RET (41_control_flow.md R69): pops the top entry into PC, or raises StackUnderflow on an empty stack. That the
popped entry keeps its value is the decision D19 (log entry 16). -/
def Obligations.RetPopsOrUnderflows : Prop :=
  ∀ (s : State),
    (∀ j : Fin 16, s.sp.val = j.val + 1 → ∃ t, exec .ret s = .next t ∧
      t = { s with sp := t.sp, pc := s.stack[j.val] } ∧ t.sp.val = j.val) ∧
    (s.sp.val = 0 → exec .ret s = .next { s with
      faultLatch := true
      result := .err { kind := .stackUnderflow, pc := s.instrPc, opcode := some s.opcode, detail := .empty } })

/-- JP addr (41_control_flow.md R70) and LD I, addr (43_memory_index.md R91): the 12-bit operand, zero-extended, in PC
and in I, and nothing else changed. -/
def Obligations.JumpAndLoadIndexTakeTheAddress : Prop :=
  ∀ (nnn : Addr) (s : State),
    (∃ t, exec (.jpAddr nnn) s = .next t ∧ t = { s with pc := t.pc } ∧ t.pc.toNat = nnn.toNat) ∧
    (∃ t, exec (.ldI nnn) s = .next t ∧ t = { s with i := t.i } ∧ t.i.toNat = nnn.toNat)

/-- CALL addr (41_control_flow.md R71): pushes the already advanced PC and jumps, or raises StackOverflow on a full
stack, which leaves the stack, SP and PC as they are. -/
def Obligations.CallPushesOrOverflows : Prop :=
  ∀ (nnn : Addr) (s : State),
    (s.sp.val < 16 → ∃ t, exec (.callAddr nnn) s = .next t ∧
      t = { s with sp := t.sp, stack := t.stack, pc := t.pc } ∧
      t.sp.val = s.sp.val + 1 ∧ t.pc.toNat = nnn.toNat ∧
      ∀ j : Fin 16, t.stack[j.val] = if j.val = s.sp.val then s.pc else s.stack[j.val]) ∧
    (s.sp.val = 16 → exec (.callAddr nnn) s = .next { s with
      faultLatch := true
      result := .err { kind := .stackOverflow, pc := s.instrPc, opcode := some s.opcode, detail := .empty } })

/-- Nested calls followed by as many returns bring PC and SP back and keep the entries in use, for any nesting the stack
holds, and one call more than it holds raises StackOverflow (95_test_vectors.md Q4, Q5; 41_control_flow.md R69, R71). -/
def Obligations.NestedCallsReturn : Prop :=
  ∀ (targets : List Addr) (s : State),
    (s.sp.val + targets.length ≤ 16 →
      ∃ t, runInstrs (targets.map .callAddr ++ List.replicate targets.length .ret) s = .next t ∧
        t = { s with stack := t.stack } ∧ ∀ j : Fin 16, j.val < s.sp.val → t.stack[j.val] = s.stack[j.val]) ∧
    (∀ a, s.sp.val + targets.length = 16 →
      ∃ t, runInstrs (targets.map .callAddr ++ [.callAddr a]) s = .next t ∧ t.sp.val = 16 ∧
        t.result = .err { kind := .stackOverflow, pc := s.instrPc, opcode := some s.opcode, detail := .empty })

/-- SE Vx, byte and SNE Vx, byte (41_control_flow.md R72, R73): PC advanced by 2 more exactly when the condition holds,
and nothing else changed. -/
def Obligations.SkipsOnLiteral : Prop :=
  ∀ (x : RegIdx) (kk : Byte) (s : State),
    exec (.seByte x kk) s = .next { s with pc := if s.reg x = kk then s.pc + 2 else s.pc } ∧
    exec (.sneByte x kk) s = .next { s with pc := if s.reg x = kk then s.pc else s.pc + 2 }

/-- SE Vx, Vy and SNE Vx, Vy (41_control_flow.md R74, R75; that a non-zero low nibble is Unknown is the decision D3 and
stands in UnknownWordsAreExactlyThese). -/
def Obligations.SkipsOnRegisters : Prop :=
  ∀ (x y : RegIdx) (s : State),
    exec (.seReg x y) s = .next { s with pc := if s.reg x = s.reg y then s.pc + 2 else s.pc } ∧
    exec (.sneReg x y) s = .next { s with pc := if s.reg x = s.reg y then s.pc else s.pc + 2 }

/-- JP V0, addr (41_control_flow.md R76): PC = nnn + V0, always V0; a sum above 0xFFF is rejected at the jump, which is
the spec's decision D8 (log entry 13). -/
def Obligations.JumpWithOffset : Prop :=
  ∀ (nnn : Addr) (s : State),
    (nnn.toNat + (s.reg 0).toNat ≤ 0xFFF → ∃ t, exec (.jpV0 nnn) s = .next t ∧
      t = { s with pc := t.pc } ∧ t.pc.toNat = nnn.toNat + (s.reg 0).toNat) ∧
    (nnn.toNat + (s.reg 0).toNat > 0xFFF → exec (.jpV0 nnn) s = .next { s with
      faultLatch := true
      result := .err { kind := .outOfBoundsAccess, pc := s.instrPc, opcode := some s.opcode,
                       detail := .address (nnn.toNat + (s.reg 0).toNat) } })

/-! ### The arithmetic/logic group -/

/-- LD Vx, byte; LD, OR, AND, XOR Vx, Vy (42_alu.md R79, R81 to R84): the value in Vx, bit by bit for the bitwise ones,
every other register and all other state unchanged: VF is written only as the destination. -/
def Obligations.LoadsAndBitwise : Prop :=
  ∀ (x y : RegIdx) (kk : Byte) (s : State),
    (∃ t, exec (.ldByte x kk) s = .next t ∧ t = { s with v := t.v } ∧ t.reg x = kk ∧
      ∀ r, r ≠ x → t.reg r = s.reg r) ∧
    (∃ t, exec (.ldReg x y) s = .next t ∧ t = { s with v := t.v } ∧ t.reg x = s.reg y ∧
      ∀ r, r ≠ x → t.reg r = s.reg r) ∧
    (∃ t, exec (.orReg x y) s = .next t ∧ t = { s with v := t.v } ∧
      (∀ k, (t.reg x).getLsbD k = ((s.reg x).getLsbD k || (s.reg y).getLsbD k)) ∧
      ∀ r, r ≠ x → t.reg r = s.reg r) ∧
    (∃ t, exec (.andReg x y) s = .next t ∧ t = { s with v := t.v } ∧
      (∀ k, (t.reg x).getLsbD k = ((s.reg x).getLsbD k && (s.reg y).getLsbD k)) ∧
      ∀ r, r ≠ x → t.reg r = s.reg r) ∧
    (∃ t, exec (.xorReg x y) s = .next t ∧ t = { s with v := t.v } ∧
      (∀ k, (t.reg x).getLsbD k = ((s.reg x).getLsbD k ^^ (s.reg y).getLsbD k)) ∧
      ∀ r, r ≠ x → t.reg r = s.reg r)

/-- ADD Vx, byte (42_alu.md R80): the sum modulo 256 in Vx, no flag: VF is unchanged unless x = 15. -/
def Obligations.AddLiteralWrapsWithoutFlag : Prop :=
  ∀ (x : RegIdx) (kk : Byte) (s : State), ∃ t, exec (.addByte x kk) s = .next t ∧ t = { s with v := t.v } ∧
    (t.reg x).toNat = ((s.reg x).toNat + kk.toNat) % 256 ∧ ∀ r, r ≠ x → t.reg r = s.reg r

/-- ADD Vx, Vy (42_alu.md R85): the sum modulo 256 in Vx and the carry in VF; when x = 15 the flag is what remains. -/
def Obligations.AddSetsCarry : Prop :=
  ∀ (x y : RegIdx) (s : State), ∃ t, exec (.addReg x y) s = .next t ∧ t = { s with v := t.v } ∧
    (x ≠ 15 → (t.reg x).toNat = ((s.reg x).toNat + (s.reg y).toNat) % 256) ∧
    t.reg 15 = (if (s.reg x).toNat + (s.reg y).toNat > 255 then 1 else 0) ∧
    ∀ r, r ≠ x → r ≠ 15 → t.reg r = s.reg r

/-- SUB Vx, Vy and SUBN Vx, Vy (42_alu.md R86, R88): the integer difference modulo 256 in Vx and "no borrow" in VF,
computed from the values before the subtraction; when x = 15 the flag is what remains. -/
def Obligations.SubtractionsSetNoBorrow : Prop :=
  ∀ (x y : RegIdx) (s : State),
    (∃ t, exec (.subReg x y) s = .next t ∧ t = { s with v := t.v } ∧
      (x ≠ 15 → ((t.reg x).toNat : Int) = (((s.reg x).toNat : Int) - ((s.reg y).toNat : Int)) % 256) ∧
      t.reg 15 = (if (s.reg x).toNat ≥ (s.reg y).toNat then 1 else 0) ∧
      ∀ r, r ≠ x → r ≠ 15 → t.reg r = s.reg r) ∧
    (∃ t, exec (.subnReg x y) s = .next t ∧ t = { s with v := t.v } ∧
      (x ≠ 15 → ((t.reg x).toNat : Int) = (((s.reg y).toNat : Int) - ((s.reg x).toNat : Int)) % 256) ∧
      t.reg 15 = (if (s.reg y).toNat ≥ (s.reg x).toNat then 1 else 0) ∧
      ∀ r, r ≠ x → r ≠ 15 → t.reg r = s.reg r)

/-- SHR Vx and SHL Vx (42_alu.md R87, R89): the original Vx shifted by one, whatever y is, and the bit it loses in VF;
when x = 15 the flag is what remains. -/
def Obligations.ShiftsKeepTheLostBit : Prop :=
  ∀ (x y : RegIdx) (s : State),
    (∃ t, exec (.shr x y) s = .next t ∧ t = { s with v := t.v } ∧
      (x ≠ 15 → (t.reg x).toNat = (s.reg x).toNat / 2) ∧ (t.reg 15).toNat = (s.reg x).toNat % 2 ∧
      ∀ r, r ≠ x → r ≠ 15 → t.reg r = s.reg r) ∧
    (∃ t, exec (.shl x y) s = .next t ∧ t = { s with v := t.v } ∧
      (x ≠ 15 → (t.reg x).toNat = (2 * (s.reg x).toNat) % 256) ∧ (t.reg 15).toNat = (s.reg x).toNat / 128 ∧
      ∀ r, r ≠ x → r ≠ 15 → t.reg r = s.reg r)

/-- RND Vx, byte (42_alu.md R90, the spec's decision D4): Vx = r & kk for the next free byte r, so every bit outside kk
is 0 whatever r is, and the next execution draws another; VF is no flag of it. The free byte is the opaque
`Config.randomByte` at the model's counter (log entry 4): nothing is assumed of its value. -/
def Obligations.RandomByteIsMasked : Prop :=
  ∀ (x : RegIdx) (kk : Byte) (s : State), ∃ t, exec (.rnd x kk) s = .next t ∧
    t = { s with v := t.v, draws := s.draws + 1 } ∧
    t.reg x = Config.randomByte s.draws &&& kk ∧ (∀ k, kk.getLsbD k = false → (t.reg x).getLsbD k = false) ∧
    ∀ r, r ≠ x → t.reg r = s.reg r

/-! ### The memory/index group -/

/-- ADD I, Vx and LD F, Vx (43_memory_index.md R92, R96): I + Vx modulo 2^16 (decision D9) and 5 · Vx with no mask
(decision D24), no flag, nothing else changed (log entry 14). -/
def Obligations.IndexAddAndFontAddress : Prop :=
  ∀ (x : RegIdx) (s : State),
    (∃ t, exec (.addI x) s = .next t ∧ t = { s with i := t.i } ∧
      t.i.toNat = (s.i.toNat + (s.reg x).toNat) % 65536) ∧
    (∃ t, exec (.ldF x) s = .next t ∧ t = { s with i := t.i } ∧ t.i.toNat = 5 * (s.reg x).toNat)

/-- LD B, Vx (43_memory_index.md R93): the decimal digits of Vx at I, I+1, I+2, every other byte and all other state
unchanged; OutOfBoundsAccess, with nothing written, when I + 2 is beyond 0xFFF (decisions D6, D10; log entries 12,
13). The premise is the memory part of the invariant. -/
def Obligations.DecimalDigitsAreStored : Prop :=
  ∀ (x : RegIdx) (s : State), s.mem.wf →
    (s.i.toNat + 2 ≤ 0xFFF → ∃ t, exec (.ldB x) s = .next t ∧ t = { s with mem := t.mem } ∧ t.mem.wf ∧
      (t.readByte s.i.toNat).toNat = (s.reg x).toNat / 100 ∧
      (t.readByte (s.i.toNat + 1)).toNat = (s.reg x).toNat / 10 % 10 ∧
      (t.readByte (s.i.toNat + 2)).toNat = (s.reg x).toNat % 10 ∧
      ∀ a, a < s.i.toNat ∨ s.i.toNat + 2 < a → t.readByte a = s.readByte a) ∧
    (s.i.toNat + 2 > 0xFFF → exec (.ldB x) s = .next { s with
      faultLatch := true
      result := .err { kind := .outOfBoundsAccess, pc := s.instrPc, opcode := some s.opcode,
                       detail := .address (max s.i.toNat 0x1000) } })

/-- LD [I], Vx (43_memory_index.md R94): V0..Vx at I .. I+x, then I advanced by x + 1 (modulo 2^16, decision D9), every
other byte and all other state unchanged; OutOfBoundsAccess, with nothing written, when I + x is beyond 0xFFF (decision
D6; log entries 12 to 14). The premise is the memory part of the invariant. -/
def Obligations.BulkStoreWritesRegisters : Prop :=
  ∀ (x : RegIdx) (s : State), s.mem.wf →
    (s.i.toNat + x.val ≤ 0xFFF → ∃ t, exec (.ldMemVx x) s = .next t ∧
      t = { s with mem := t.mem, i := t.i } ∧ t.mem.wf ∧ t.i.toNat = (s.i.toNat + x.val + 1) % 65536 ∧
      (∀ r : RegIdx, r ≤ x → t.readByte (s.i.toNat + r.val) = s.reg r) ∧
      ∀ a, a < s.i.toNat ∨ s.i.toNat + x.val < a → t.readByte a = s.readByte a) ∧
    (s.i.toNat + x.val > 0xFFF → exec (.ldMemVx x) s = .next { s with
      faultLatch := true
      result := .err { kind := .outOfBoundsAccess, pc := s.instrPc, opcode := some s.opcode,
                       detail := .address (max s.i.toNat 0x1000) } })

/-- LD Vx, [I] (43_memory_index.md R95): V0..Vx from I .. I+x, VF as an ordinary destination when x = 15, then I advanced
by x + 1 (modulo 2^16, decision D9), the other registers, memory and all other state unchanged; OutOfBoundsAccess, with
nothing loaded, when I + x is beyond 0xFFF (decision D6; log entries 12 to 14). -/
def Obligations.BulkLoadReadsRegisters : Prop :=
  ∀ (x : RegIdx) (s : State),
    (s.i.toNat + x.val ≤ 0xFFF → ∃ t, exec (.ldVxMem x) s = .next t ∧
      t = { s with v := t.v, i := t.i } ∧ t.i.toNat = (s.i.toNat + x.val + 1) % 65536 ∧
      ∀ r : RegIdx, t.reg r = if r ≤ x then s.readByte (s.i.toNat + r.val) else s.reg r) ∧
    (s.i.toNat + x.val > 0xFFF → exec (.ldVxMem x) s = .next { s with
      faultLatch := true
      result := .err { kind := .outOfBoundsAccess, pc := s.instrPc, opcode := some s.opcode,
                       detail := .address (max s.i.toNat 0x1000) } })

/-- A bulk store, then a bulk load of the same x: with I put back, from any state that holds the stored memory, V0..Vx
are restored; without it, the bytes after the stored ones are loaded (95_test_vectors.md Q6; 43_memory_index.md R94,
R95). -/
def Obligations.BulkStoreThenLoad : Prop :=
  ∀ (x : RegIdx) (s : State), s.mem.wf → s.i.toNat + x.val ≤ 0xFFF →
    ∃ t, exec (.ldMemVx x) s = .next t ∧
      (∀ u, u.mem = t.mem → u.i = s.i →
        ∃ q, exec (.ldVxMem x) u = .next q ∧ ∀ r : RegIdx, r ≤ x → q.reg r = s.reg r) ∧
      (s.i.toNat + 2 * x.val + 1 ≤ 0xFFF →
        ∃ q, exec (.ldVxMem x) t = .next q ∧ q.i.toNat = s.i.toNat + 2 * (x.val + 1) ∧
          ∀ r : RegIdx, r ≤ x → q.reg r = s.readByte (s.i.toNat + x.val + 1 + r.val))

/-- A store is seen by the next fetch: after LD [I], Vx, any state that holds the stored memory and whose PC is at the
k-th stored byte fetches the registers' bytes as its opcode (20_memory.md R44, decision D18; log entry 15). -/
def Obligations.StoreIsSeenByFetch : Prop :=
  ∀ (x k k' : RegIdx) (s : State), s.mem.wf → s.i.toNat + x.val ≤ 0xFFF → k'.val = k.val + 1 → k' ≤ x →
    ∃ t, exec (.ldMemVx x) s = .next t ∧
      ∀ u : State, u.mem = t.mem → u.pc.toNat = s.i.toNat + k.val →
        u.fetchWord = .ok (s.reg k ++ s.reg k')

/-! ### The draw -/

/-- DRW Vx, Vy, n with n in 1..15 and its bytes in range (44_draw.md R97, R99): every pixel of the display is XORed with
the sprite's bit on it, wrapped on each axis independently, VF is 1 exactly when some pixel went from 1 to 0 anywhere in
the sprite, and nothing else changes. The coordinates are read before VF is written (decision D22, log entry 17). -/
def Obligations.DrawXorsTheSprite : Prop :=
  ∀ (x y : RegIdx) (n : Fin 16) (s : State), 0 < n.val → s.i.toNat + n.val - 1 ≤ 0xFFF →
    ∃ t, exec (.drw x y n) s = .next t ∧ t = { s with disp := t.disp, v := t.v } ∧
      (∀ row col, t.disp.pixel row col = (s.disp.pixel row col ^^ spriteBitAt s x y n row col)) ∧
      ((∃ row col, s.disp.pixel row col = true ∧ spriteBitAt s x y n row col = true) → t.reg 15 = 1) ∧
      ((∀ row col, s.disp.pixel row col = true → spriteBitAt s x y n row col = false) → t.reg 15 = 0) ∧
      ∀ r, r ≠ 15 → t.reg r = s.reg r

/-- The two errors of DRW, in their order: n = 0 raises the model-only Unmodelled, also when I is out of range (44_draw.md
R98, decision D11, log entry 8); otherwise a last sprite byte beyond 0xFFF raises OutOfBoundsAccess with nothing drawn
(44_draw.md R97, decision D6, log entry 12). -/
def Obligations.DrawRaisesInOrder : Prop :=
  ∀ (x y : RegIdx) (n : Fin 16) (s : State),
    (n.val = 0 → exec (.drw x y n) s = .next { s with
      faultLatch := true
      result := .err { kind := .unmodelled, pc := s.instrPc, opcode := some s.opcode, detail := .empty } }) ∧
    (0 < n.val → s.i.toNat + n.val - 1 > 0xFFF → exec (.drw x y n) s = .next { s with
      faultLatch := true
      result := .err { kind := .outOfBoundsAccess, pc := s.instrPc, opcode := some s.opcode,
                       detail := .address (max s.i.toNat 0x1000) } })

/-- Drawing the same sprite at the same coordinates twice restores the display, from any state that holds the first
draw's display, memory and I and names the same column and row; VF after the second draw says whether some sprite bit
fell on a pixel that was 0 before the first (44_draw.md R100, which the spec marks "[derived]"; 90_conflicts.md C10). -/
def Obligations.DrawingTwiceRestoresTheDisplay : Prop :=
  ∀ (x y x' y' : RegIdx) (n : Fin 16) (s : State), 0 < n.val → s.i.toNat + n.val - 1 ≤ 0xFFF →
    ∃ t, exec (.drw x y n) s = .next t ∧
      ∀ u : State, u.disp = t.disp → u.mem = s.mem → u.i = s.i →
        (u.reg x').toNat % 64 = (s.reg x).toNat % 64 → (u.reg y').toNat % 32 = (s.reg y).toNat % 32 →
        ∃ q, exec (.drw x' y' n) u = .next q ∧ q.disp = s.disp ∧
          (q.reg 15 = 1 ↔ ∃ row col, s.disp.pixel row col = false ∧ spriteBitAt s x y n row col = true)

/-! ### Keyboard and timers -/

/-- SKP Vx and SKNP Vx (45_keyboard_timer.md R102, R103): the skip follows the key Vx names, and a value above 15 raises
OutOfBoundsAccess with the key index, which is the spec's decision D12 (log entry 13). -/
def Obligations.KeySkips : Prop :=
  ∀ (x : RegIdx) (s : State),
    (∀ k : Fin 16, (s.reg x).toNat = k.val →
      exec (.skp x) s = .next { s with pc := if s.key k = true then s.pc + 2 else s.pc } ∧
      exec (.sknp x) s = .next { s with pc := if s.key k = true then s.pc else s.pc + 2 }) ∧
    ((s.reg x).toNat > 15 →
      let failed : State := { s with
        faultLatch := true
        result := .err { kind := .outOfBoundsAccess, pc := s.instrPc, opcode := some s.opcode,
                         detail := .keyIndex (s.reg x) } }
      exec (.skp x) s = .next failed ∧ exec (.sknp x) s = .next failed)

/-- LD Vx, K (45_keyboard_timer.md R104): the lowest pressed key's index in Vx with PC left advanced, or PC rolled back by
2 and nothing else changed when no key is pressed. The key state is the one at the start of the step (decision D26, log
entry 18). -/
def Obligations.KeyWaitTakesLowestOrRollsBack : Prop :=
  ∀ (x : RegIdx) (s : State),
    (∀ k : Fin 16, s.key k = true → (∀ j, j < k → s.key j = false) →
      ∃ t, exec (.ldVxK x) s = .next t ∧ t = { s with v := t.v } ∧ (t.reg x).toNat = k.val ∧
        ∀ r, r ≠ x → t.reg r = s.reg r) ∧
    ((∀ k, s.key k = false) → exec (.ldVxK x) s = .next { s with pc := s.pc - 2 })

/-- LD Vx, DT; LD DT, Vx; LD ST, Vx (45_keyboard_timer.md R105 to R107): "direct read/assignment"; ACC and everything else
unchanged, and is_sound_active follows ST at once. -/
def Obligations.TimerLoadsAndStores : Prop :=
  ∀ (x : RegIdx) (s : State),
    (∃ t, exec (.ldVxDt x) s = .next t ∧ t = { s with v := t.v } ∧ t.reg x = s.dt ∧
      ∀ r, r ≠ x → t.reg r = s.reg r) ∧
    exec (.ldDtVx x) s = .next { s with dt := s.reg x } ∧
    (∃ t, exec (.ldStVx x) s = .next t ∧ t = { s with st := s.reg x } ∧
      (isSoundActive t = true ↔ s.reg x ≠ 0))

/-! ### The host's calls -/

/-- tick(elapsed_ms) (60_exceptions.md R119; the types and the parameter are the decision D14, log entry 6): ACC is added
to first, and only above the threshold both timers lose 1, saturating at 0; nothing else changes; at the default
threshold the test is ACC ≥ 17. -/
def Obligations.TickCountsDownAboveThreshold : Prop :=
  ∀ (elapsed : Nat) (s : State), ∃ t, transact (.tick elapsed) s = .next t ∧
    t = { s with acc := s.acc + elapsed, dt := t.dt, st := t.st } ∧
    ((s.acc + elapsed) * s.params.tickDen > s.params.tickNum →
      t.dt.toNat = s.dt.toNat - 1 ∧ t.st.toNat = s.st.toNat - 1) ∧
    ((s.acc + elapsed) * s.params.tickDen ≤ s.params.tickNum → t.dt = s.dt ∧ t.st = s.st) ∧
    (s.params = Config.Params.default →
      ((s.acc + elapsed) * s.params.tickDen > s.params.tickNum ↔ s.acc + elapsed ≥ 17))

/-- The never-reset accumulator (60_exceptions.md R120): once ACC is above the threshold, every later tick takes exactly 1
off each timer, saturating at 0, whatever its elapsed_ms, and ACC only grows by what was elapsed. -/
def Obligations.TicksAfterCrossingAlwaysCount : Prop :=
  ∀ (ticks : List Nat) (s : State), s.acc * s.params.tickDen > s.params.tickNum →
    ∃ t, session (ticks.map .tick) s = .next t ∧
      t = { s with acc := s.acc + ticks.sum, dt := t.dt, st := t.st } ∧
      t.dt.toNat = s.dt.toNat - ticks.length ∧ t.st.toNat = s.st.toNat - ticks.length

/-- is_sound_active() "returns true exactly when ST != 0; it reads ST and changes nothing" (60_exceptions.md R122). -/
def Obligations.SoundActiveFollowsSoundTimer : Prop :=
  ∀ (s : State), transact .isSoundActive s = .next s ∧
    (reply .isSoundActive s = .sound true ↔ s.st ≠ 0) ∧ (reply .isSoundActive s = .sound false ↔ s.st = 0)

/-- set_key writes the one key and nothing else; read_display and read_registers return the display and the snapshot of
V, I, PC, SP, DT, ST and change nothing (60_exceptions.md R123 to R125, decisions D13 and D27; log entry 18). -/
def Obligations.KeySetterAndReaders : Prop :=
  ∀ (k : Fin 16) (pressed : Bool) (s : State),
    (∃ t, transact (.setKey k pressed) s = .next t ∧ t = { s with keys := t.keys } ∧ t.key k = pressed ∧
      (∀ j, j ≠ k → t.key j = s.key j) ∧ reply (.setKey k pressed) t = .nothing) ∧
    transact .readDisplay s = .next s ∧ reply .readDisplay s = .display s.disp ∧
    transact .readRegisters s = .next s ∧
    reply .readRegisters s =
      .registers { v := s.v, i := s.i, pc := s.pc, sp := s.sp, dt := s.dt, st := s.st }

/-- construct(rom_bytes) for any FONT and parameters (70_reset_and_hazards.md R128 to R130; that FONT is a parameter is
the decision D5, that any length up to 3584 is accepted the decision D28; log entries 5, 22): RomTooLarge for a ROM longer
than 3584 bytes, and otherwise the FONT at 0..79, the ROM from 0x200 on, every other byte 0, PC = 0x200 and all other
state 0. -/
def Obligations.ConstructLoadsFontAndRom : Prop :=
  ∀ (font : Vector Byte 80) (params : Config.Params) (rom : List Byte),
    (rom.length > 3584 → construct font params rom = .error .romTooLarge) ∧
    (rom.length ≤ 3584 → ∃ s, construct font params rom = .ok s ∧
      (∀ a : Fin 80, s.readByte a.val = font[a.val]) ∧
      (∀ k, (h : k < rom.length) → s.readByte (0x200 + k) = rom[k]) ∧
      (∀ a, 80 ≤ a → a < 0x200 ∨ 0x200 + rom.length ≤ a → s.readByte a = 0) ∧
      s.pc.toNat = 0x200 ∧ s.i = 0 ∧ (∀ r, s.reg r = 0) ∧ s.sp.val = 0 ∧ (∀ j : Fin 16, s.stack[j.val] = 0) ∧
      (∀ row col, s.disp.pixel row col = false) ∧ (∀ k, s.key k = false) ∧
      s.dt = 0 ∧ s.st = 0 ∧ s.acc = 0 ∧ s.params = params ∧ s.faultLatch = false)

/-- The reset state is what construct gives for an empty ROM with the default FONT and parameters, and its first step
raises UnknownOpcode on the word 0x0000 with PC = 0x202 (70_reset_and_hazards.md R129; 95_test_vectors.md V-RST-3; log
entry 22). -/
def Obligations.ResetIsConstructOfEmptyRom : Prop :=
  construct Config.defaultFont Config.Params.default [] = .ok State.reset ∧
  ∃ t, step State.reset = .next t ∧ t.pc = 0x202 ∧
    t.result = .err { kind := .unknownOpcode, pc := 0x200, opcode := some 0x0000, detail := .empty }

/-! ### What a step cannot see -/

/-- ACC is "read only by the tick … and not visible to the host or to any instruction" (10_state.md R26; its type is the
decision D14): a step is the same whatever ACC holds. -/
def Obligations.StepIgnoresAccumulator : Prop :=
  ∀ (s : State) (a : Nat), ∃ t, step s = .next t ∧ step { s with acc := a } = .next { t with acc := a }

/-- "The block keeps no error state of its own" (60_exceptions.md R111, which the spec marks "[derived]"): a step does the
same to the hardware's state, and returns the same, whatever the model's latch, last result, instrPc and opcode hold (log
entries 9, 10). -/
def Obligations.StepIgnoresErrorHistory : Prop :=
  ∀ (s : State) (latch : Bool) (res : StepResult) (p w : Word), ∃ t u,
    step s = .next t ∧
    step { s with faultLatch := latch, result := res, instrPc := p, opcode := w } = .next u ∧
    State.SameHardware t u ∧ u.result = t.result

/-- "Entries at index >= SP are never read by any rule, so their values are unobservable" (10_state.md R21, decision D19;
log entry 16): two states that differ in such entries alone take steps to states that do. -/
def Obligations.DeadStackEntriesAreUnobservable : Prop :=
  ∀ (s s' : State), s' = { s with stack := s'.stack } →
    (∀ j : Fin 16, j.val < s.sp.val → s'.stack[j.val] = s.stack[j.val]) →
    ∃ t t', step s = .next t ∧ step s' = .next t' ∧ t' = { t with stack := t'.stack } ∧
      ∀ j : Fin 16, j.val < t.sp.val → t'.stack[j.val] = t.stack[j.val]

/-- Memory's canonical form is unique: two memories in it that read alike at every address are equal data (the model's
own form of 20_memory.md R30; log entry 5). -/
def Obligations.CanonicalMemoryIsUnique : Prop :=
  ∀ (m m' : Memory), m.wf → m'.wf → (∀ a, m.read a = m'.read a) → m = m'
end

