-- ==== Sys2Proof/Laws/Decode.lean ====
section
/-! SUPPORT. The mask-and-match test nibble by nibble, and the fields of each format: what a proof about the decoder
needs instead of bit arithmetic on whole words. -/

namespace Sys2Proof

/-- The k-th nibble of a word, from the least significant one. -/
def nib (w : Word) (k : Nat) : BitVec 4 := w.extractLsb' (4 * k) 4

/-- Two words are equal when their four nibbles are. -/
theorem eq_of_nibs {w u : Word} (h3 : nib w 3 = nib u 3) (h2 : nib w 2 = nib u 2) (h1 : nib w 1 = nib u 1)
    (h0 : nib w 0 = nib u 0) : w = u := by
  apply BitVec.eq_of_getLsbD_eq
  intro i hi
  have key : ∀ k : Nat, ∀ j, j < 4 → nib w k = nib u k → w.getLsbD (4 * k + j) = u.getLsbD (4 * k + j) := by
    intro k j hj h
    have := congrArg (fun b => b.getLsbD j) h
    simpa [nib, BitVec.getLsbD_extractLsb', hj] using this
  rcases Nat.lt_or_ge i 4 with h | h
  · simpa using key 0 i h h0
  rcases Nat.lt_or_ge i 8 with h | h
  · simpa [show 4 * 1 + (i - 4) = i by omega] using key 1 (i - 4) (by omega) h1
  rcases Nat.lt_or_ge i 12 with h | h
  · simpa [show 4 * 2 + (i - 8) = i by omega] using key 2 (i - 8) (by omega) h2
  · simpa [show 4 * 3 + (i - 12) = i by omega] using key 3 (i - 12) (by omega) h3

theorem nib_and (w m : Word) (k : Nat) : nib (w &&& m) k = nib w k &&& nib m k := by
  apply BitVec.eq_of_getLsbD_eq
  intro i hi
  simp only [nib, BitVec.getLsbD_extractLsb', BitVec.getLsbD_and]
  cases decide (i < 4) <;> rfl

/-- `(w & mask) == match`, nibble by nibble. -/
theorem and_eq_iff_nibs (w m p : Word) :
    w &&& m = p ↔ nib w 3 &&& nib m 3 = nib p 3 ∧ nib w 2 &&& nib m 2 = nib p 2 ∧
      nib w 1 &&& nib m 1 = nib p 1 ∧ nib w 0 &&& nib m 0 = nib p 0 := by
  simp only [← nib_and]
  constructor
  · intro h; simp [h]
  · rintro ⟨h3, h2, h1, h0⟩; exact eq_of_nibs h3 h2 h1 h0

/-- A row's test, nibble by nibble. -/
theorem matchesWord_iff (r : DecodeRow) (w : Word) :
    r.matchesWord w = true ↔ nib w 3 &&& nib r.mask 3 = nib r.pattern 3 ∧ nib w 2 &&& nib r.mask 2 = nib r.pattern 2 ∧
      nib w 1 &&& nib r.mask 1 = nib r.pattern 1 ∧ nib w 0 &&& nib r.mask 0 = nib r.pattern 0 := by
  unfold DecodeRow.matchesWord
  rw [beq_iff_eq, and_eq_iff_nibs]

/-- A word put together from four nibbles. -/
theorem nib_append (g x y n : BitVec 4) :
    nib (g ++ x ++ y ++ n : Word) 3 = g ∧ nib (g ++ x ++ y ++ n : Word) 2 = x ∧
    nib (g ++ x ++ y ++ n : Word) 1 = y ∧ nib (g ++ x ++ y ++ n : Word) 0 = n := by
  have bit : ∀ k, (g ++ x ++ y ++ n : Word).getLsbD k =
      if k < 4 then n.getLsbD k else if k < 8 then y.getLsbD (k - 4)
      else if k < 12 then x.getLsbD (k - 8) else g.getLsbD (k - 12) := by
    intro k
    simp only [BitVec.getLsbD_append, Nat.sub_sub]
    split_ifs <;> first | rfl | omega
  refine ⟨?_, ?_, ?_, ?_⟩ <;>
  · apply BitVec.eq_of_getLsbD_eq
    intro i hi
    simp only [nib, BitVec.getLsbD_extractLsb', bit]
    interval_cases i <;> simp

/-- Every word is its four nibbles. -/
theorem eq_append_nibs (w : Word) : w = (nib w 3 ++ nib w 2 ++ nib w 1 ++ nib w 0 : Word) := by
  obtain ⟨h3, h2, h1, h0⟩ := nib_append (nib w 3) (nib w 2) (nib w 1) (nib w 0)
  exact eq_of_nibs h3.symm h2.symm h1.symm h0.symm

/-! ### The formats of R48 -/

@[simp] theorem toNat_nibble (x : Fin 16) : (nibble x).toNat = x.val := by
  have := x.isLt
  simp [nibble]

/-- The four nibbles of F_XY (and of F_XYN, with n in the place of s). -/
theorem nib_formXY (g s : BitVec 4) (x y : RegIdx) :
    nib (formXY g x y s) 3 = g ∧ nib (formXY g x y s) 2 = nibble x ∧ nib (formXY g x y s) 1 = nibble y ∧
    nib (formXY g x y s) 0 = s := nib_append _ _ _ _

theorem getLsbD_formXKK (g : BitVec 4) (x : RegIdx) (kk : Byte) (k : Nat) : (formXKK g x kk).getLsbD k =
    if k < 8 then kk.getLsbD k else if k < 12 then (nibble x).getLsbD (k - 8) else g.getLsbD (k - 12) := by
  simp only [formXKK, BitVec.getLsbD_append, Nat.sub_sub]
  split_ifs <;> first | rfl | omega

theorem getLsbD_formNNN (g : BitVec 4) (nnn : Addr) (k : Nat) : (formNNN g nnn).getLsbD k =
    if k < 12 then nnn.getLsbD k else g.getLsbD (k - 12) := by
  simp only [formNNN, BitVec.getLsbD_append]

/-- The nibbles of F_XKK: kk fills the two low ones. -/
theorem nib_formXKK (g : BitVec 4) (x : RegIdx) (kk : Byte) :
    nib (formXKK g x kk) 3 = g ∧ nib (formXKK g x kk) 2 = nibble x ∧
    nib (formXKK g x kk) 1 = kk.extractLsb' 4 4 ∧ nib (formXKK g x kk) 0 = kk.extractLsb' 0 4 := by
  refine ⟨?_, ?_, ?_, ?_⟩ <;>
  · apply BitVec.eq_of_getLsbD_eq
    intro i hi
    simp only [nib, BitVec.getLsbD_extractLsb', getLsbD_formXKK]
    interval_cases i <;> simp

/-- F_X is F_XKK with a fixed byte in the place of kk. -/
theorem formX_eq (g : BitVec 4) (x : RegIdx) (ss : Byte) : formX g x ss = formXKK g x ss := rfl

/-- The nibbles of F_NNN: nnn fills the three low ones. -/
theorem nib_formNNN (g : BitVec 4) (nnn : Addr) :
    nib (formNNN g nnn) 3 = g ∧ nib (formNNN g nnn) 2 = nnn.extractLsb' 8 4 ∧
    nib (formNNN g nnn) 1 = nnn.extractLsb' 4 4 ∧ nib (formNNN g nnn) 0 = nnn.extractLsb' 0 4 := by
  refine ⟨?_, ?_, ?_, ?_⟩ <;>
  · apply BitVec.eq_of_getLsbD_eq
    intro i hi
    simp only [nib, BitVec.getLsbD_extractLsb', getLsbD_formNNN]
    interval_cases i <;> simp

/-! ### The fields of the formats (R47) -/

/-- x is nibble 2. -/
theorem fieldX_of_nib {w : Word} {x : RegIdx} (h : nib w 2 = nibble x) : fieldX w = x := by
  apply Fin.ext
  show (nib w 2).toNat = x.val
  rw [h, toNat_nibble]

/-- y is nibble 1. -/
theorem fieldY_of_nib {w : Word} {y : RegIdx} (h : nib w 1 = nibble y) : fieldY w = y := by
  apply Fin.ext
  show (nib w 1).toNat = y.val
  rw [h, toNat_nibble]

/-- n is nibble 0. -/
theorem fieldN_of_nib {w : Word} {n : Fin 16} (h : nib w 0 = nibble n) : fieldN w = n := by
  apply Fin.ext
  show (nib w 0).toNat = n.val
  rw [h, toNat_nibble]

/-- kk is the low byte of F_XKK. -/
@[simp] theorem fieldKK_formXKK (g : BitVec 4) (x : RegIdx) (kk : Byte) : fieldKK (formXKK g x kk) = kk := by
  apply BitVec.eq_of_getLsbD_eq
  intro i hi
  simp only [fieldKK, BitVec.getLsbD_extractLsb', getLsbD_formXKK]
  simp [hi]

/-- nnn is the low 12 bits of F_NNN. -/
@[simp] theorem fieldNNN_formNNN (g : BitVec 4) (nnn : Addr) : fieldNNN (formNNN g nnn) = nnn := by
  apply BitVec.eq_of_getLsbD_eq
  intro i hi
  simp only [fieldNNN, BitVec.getLsbD_extractLsb', getLsbD_formNNN]
  simp [hi]

@[simp] theorem fieldX_formXKK (g : BitVec 4) (x : RegIdx) (kk : Byte) : fieldX (formXKK g x kk) = x :=
  fieldX_of_nib (nib_formXKK g x kk).2.1

@[simp] theorem fieldX_formX (g : BitVec 4) (x : RegIdx) (ss : Byte) : fieldX (formX g x ss) = x :=
  fieldX_of_nib (nib_formXKK g x ss).2.1

@[simp] theorem fieldX_formXY (g s : BitVec 4) (x y : RegIdx) : fieldX (formXY g x y s) = x :=
  fieldX_of_nib (nib_formXY g s x y).2.1

@[simp] theorem fieldY_formXY (g s : BitVec 4) (x y : RegIdx) : fieldY (formXY g x y s) = y :=
  fieldY_of_nib (nib_formXY g s x y).2.2.1

@[simp] theorem fieldN_formXY (g : BitVec 4) (x y : RegIdx) (n : Fin 16) :
    fieldN (formXY g x y (nibble n)) = n :=
  fieldN_of_nib (nib_formXY g (nibble n) x y).2.2.2

/-- A mask of ones keeps a nibble. -/
@[simp] theorem and_ones (b : BitVec 4) : b &&& 15#4 = b := BitVec.and_allOnes

/-! ### The mask of each format leaves the row's pattern (R52) -/

theorem and_formNNN (g : BitVec 4) (nnn : Addr) : formNNN g nnn &&& 0xF000#16 = formNNN g 0 := by
  obtain ⟨h3, h2, h1, h0⟩ := nib_formNNN g nnn
  obtain ⟨k3, k2, k1, k0⟩ := nib_formNNN g 0
  rw [and_eq_iff_nibs, h3, h2, h1, h0, k3, k2, k1, k0]
  simp [nib]

theorem and_formXKK (g : BitVec 4) (x : RegIdx) (kk : Byte) : formXKK g x kk &&& 0xF000#16 = formXKK g 0 0 := by
  obtain ⟨h3, h2, h1, h0⟩ := nib_formXKK g x kk
  obtain ⟨k3, k2, k1, k0⟩ := nib_formXKK g 0 0
  rw [and_eq_iff_nibs, h3, h2, h1, h0, k3, k2, k1, k0]
  simp [nib, nibble]

theorem and_formX (g : BitVec 4) (x : RegIdx) (ss : Byte) : formX g x ss &&& 0xF0FF#16 = formX g 0 ss := by
  obtain ⟨h3, h2, h1, h0⟩ := nib_formXKK g x ss
  obtain ⟨k3, k2, k1, k0⟩ := nib_formXKK g 0 ss
  rw [formX_eq, formX_eq, and_eq_iff_nibs, h3, h2, h1, h0, k3, k2, k1, k0]
  simp [nib, nibble]

theorem and_formXY (g s : BitVec 4) (x y : RegIdx) : formXY g x y s &&& 0xF00F#16 = formXY g 0 0 s := by
  obtain ⟨h3, h2, h1, h0⟩ := nib_formXY g s x y
  obtain ⟨k3, k2, k1, k0⟩ := nib_formXY g s 0 0
  rw [and_eq_iff_nibs, h3, h2, h1, h0, k3, k2, k1, k0]
  simp [nib, nibble]

theorem and_formXYN (g s : BitVec 4) (x y : RegIdx) : formXY g x y s &&& 0xF000#16 = formXY g 0 0 0 := by
  obtain ⟨h3, h2, h1, h0⟩ := nib_formXY g s x y
  obtain ⟨k3, k2, k1, k0⟩ := nib_formXY g 0 0 0
  rw [and_eq_iff_nibs, h3, h2, h1, h0, k3, k2, k1, k0]
  simp [nib, nibble]

end Sys2Proof
end

