-- ==== Sys2Proof/Laws/Memory.lean ====
section
/-! SUPPORT. The laws of memory: read after write, what a write leaves alone, and that every operation keeps the canonical
form. -/

namespace Sys2Proof.Machine

/-! ### Reading one address -/

theorem Memory.read_unlisted_self {m : Memory} {a : Nat} (h : m.wf) :
    (m.unlisted a).read a = Memory.background a := by
  induction m with
  | nil => rfl
  | cons c rest ih =>
    obtain ⟨b, u⟩ := c
    obtain ⟨hs, hb⟩ := h
    rw [List.pairwise_cons] at hs
    by_cases hab : a = b
    · subst hab
      have hlt : ∀ d ∈ rest, a < d.1 := fun d hd => hs.1 d hd
      have hread : ∀ m' : Memory, (∀ d ∈ m', a < d.1) → m'.read a = Memory.background a := by
        intro m' hm'
        induction m' with
        | nil => rfl
        | cons e es ih' =>
          obtain ⟨b', u'⟩ := e
          have h1 : a < b' := hm' (b', u') (by simp)
          have h2 := ih' (fun d hd => hm' d (by simp [hd]))
          simp only [Memory.read]
          rw [if_neg (by omega)]
          exact h2
      simp only [Memory.unlisted, if_true]
      exact hread rest hlt
    · have ih' := ih ⟨hs.2, fun c hc => hb c (by simp [hc])⟩
      simp [Memory.unlisted, Memory.read, hab, ih']

theorem Memory.read_unlisted_ne (m : Memory) {a a' : Nat} (h : a' ≠ a) :
    (m.unlisted a).read a' = m.read a' := by
  induction m with
  | nil => rfl
  | cons c rest ih =>
    obtain ⟨b, u⟩ := c
    by_cases hab : a = b
    · subst hab; simp [Memory.unlisted, Memory.read, h]
    · simp [Memory.unlisted, Memory.read, hab, ih]

theorem Memory.read_listed_self (m : Memory) (a : Nat) (v : Byte) : (m.listed a v).read a = v := by
  induction m with
  | nil => simp [Memory.listed, Memory.read]
  | cons c rest ih =>
    obtain ⟨b, u⟩ := c
    by_cases h1 : a < b
    · simp [Memory.listed, Memory.read, h1]
    · by_cases h2 : a = b
      · simp [Memory.listed, Memory.read, h2]
      · simp [Memory.listed, Memory.read, h1, h2, ih]

theorem Memory.read_listed_ne (m : Memory) {a a' : Nat} (v : Byte) (h : a' ≠ a) :
    (m.listed a v).read a' = m.read a' := by
  induction m with
  | nil => simp [Memory.listed, Memory.read, h]
  | cons c rest ih =>
    obtain ⟨b, u⟩ := c
    by_cases h1 : a < b
    · simp [Memory.listed, Memory.read, h1, h]
    · by_cases h2 : a = b
      · subst h2; simp [Memory.listed, Memory.read, h]
      · simp [Memory.listed, Memory.read, h1, h2, ih]

/-- A read after a write to the same place gives the value written. -/
theorem Memory.read_write_self {m : Memory} (h : m.wf) (a : Nat) (v : Byte) : (m.write a v).read a = v := by
  unfold Memory.write
  split
  · next hv => rw [Memory.read_unlisted_self h, hv]
  · exact Memory.read_listed_self m a v

/-- A write leaves every other place alone. -/
theorem Memory.read_write_ne (m : Memory) {a a' : Nat} (v : Byte) (h : a' ≠ a) :
    (m.write a v).read a' = m.read a' := by
  unfold Memory.write
  split
  · exact Memory.read_unlisted_ne m h
  · exact Memory.read_listed_ne m v h

/-! ### The canonical form -/

theorem Memory.mem_unlisted {m : Memory} {a : Nat} {c : Host.Cell} (h : c ∈ m.unlisted a) : c ∈ m := by
  induction m with
  | nil => simp [Memory.unlisted] at h
  | cons d rest ih =>
    obtain ⟨b, u⟩ := d
    simp only [Memory.unlisted] at h
    split at h
    · exact List.mem_cons_of_mem _ h
    · rcases List.mem_cons.mp h with h | h
      · simp [h]
      · exact List.mem_cons_of_mem _ (ih h)

theorem Memory.mem_listed {m : Memory} {a : Nat} {v : Byte} {c : Host.Cell} (h : c ∈ m.listed a v) :
    c = (a, v) ∨ c ∈ m := by
  induction m with
  | nil => simpa [Memory.listed] using h
  | cons d rest ih =>
    obtain ⟨b, u⟩ := d
    simp only [Memory.listed] at h
    split at h
    · simpa using h
    · split at h
      · rcases List.mem_cons.mp h with h | h
        · exact .inl h
        · exact .inr (List.mem_cons_of_mem _ h)
      · rcases List.mem_cons.mp h with h | h
        · exact .inr (by simp [h])
        · rcases ih h with h | h
          · exact .inl h
          · exact .inr (List.mem_cons_of_mem _ h)

theorem Memory.pairwise_unlisted {m : Memory} (a : Nat) (h : m.Pairwise (fun c d => c.1 < d.1)) :
    (m.unlisted a).Pairwise (fun c d => c.1 < d.1) := by
  induction m with
  | nil => exact h
  | cons d rest ih =>
    obtain ⟨b, u⟩ := d
    rw [List.pairwise_cons] at h
    simp only [Memory.unlisted]
    split
    · exact h.2
    · exact List.pairwise_cons.mpr ⟨fun c hc => h.1 c (Memory.mem_unlisted hc), ih h.2⟩

theorem Memory.pairwise_listed {m : Memory} (a : Nat) (v : Byte) (h : m.Pairwise (fun c d => c.1 < d.1)) :
    (m.listed a v).Pairwise (fun c d => c.1 < d.1) := by
  induction m with
  | nil => simp [Memory.listed]
  | cons d rest ih =>
    obtain ⟨b, u⟩ := d
    have hr := List.pairwise_cons.mp h
    simp only [Memory.listed]
    split
    · next hab =>
      refine List.pairwise_cons.mpr ⟨fun c hc => ?_, h⟩
      rcases List.mem_cons.mp hc with hc | hc
      · subst hc; exact hab
      · exact lt_trans hab (hr.1 c hc)
    · split
      · next hab =>
        exact List.pairwise_cons.mpr ⟨fun c hc => by simpa [hab] using hr.1 c hc, hr.2⟩
      · next h1 h2 =>
        refine List.pairwise_cons.mpr ⟨fun c hc => ?_, ih hr.2⟩
        rcases Memory.mem_listed hc with hc | hc
        · subst hc; show b < a; omega
        · exact hr.1 c hc

/-- A write to an address of the space keeps the canonical form. -/
theorem Memory.wf_write {m : Memory} (h : m.wf) {a : Nat} (ha : a < Config.memSize) (v : Byte) :
    (m.write a v).wf := by
  unfold Memory.write
  split
  · exact ⟨Memory.pairwise_unlisted a h.1, fun c hc => h.2 c (Memory.mem_unlisted hc)⟩
  · next hv =>
    refine ⟨Memory.pairwise_listed a v h.1, fun c hc => ?_⟩
    rcases Memory.mem_listed hc with hc | hc
    · subst hc; exact ⟨ha, hv⟩
    · exact h.2 c hc

/-- The empty list is canonical: memory right after reset. -/
theorem Memory.wf_nil : Memory.wf [] := by decide

/-! ### Runs of bytes -/

/-- Storing bytes inside the space keeps the canonical form. -/
theorem Memory.wf_storeBytes {m : Memory} (h : m.wf) {base : Nat} {bytes : List Byte}
    (hb : base + bytes.length ≤ Config.memSize) : (m.storeBytes base bytes).wf := by
  induction bytes generalizing m base with
  | nil => exact h
  | cons b rest ih =>
    simp only [List.length_cons] at hb
    exact ih (Memory.wf_write h (by omega) b) (by omega)

/-- An address outside the bytes stored reads as before. -/
theorem Memory.read_storeBytes_outside (m : Memory) {base a : Nat} {bytes : List Byte}
    (h : a < base ∨ base + bytes.length ≤ a) : (m.storeBytes base bytes).read a = m.read a := by
  induction bytes generalizing m base with
  | nil => rfl
  | cons b rest ih =>
    simp only [List.length_cons] at h
    rw [Memory.storeBytes, ih _ (by omega), Memory.read_write_ne _ _ (by omega)]

/-- The k-th byte stored is read back at base + k. -/
theorem Memory.read_storeBytes_inside {m : Memory} (hw : m.wf) {base k : Nat} {bytes : List Byte}
    (hb : base + bytes.length ≤ Config.memSize) (hk : k < bytes.length) :
    (m.storeBytes base bytes).read (base + k) = bytes[k] := by
  induction bytes generalizing m base k with
  | nil => simp at hk
  | cons b rest ih =>
    simp only [List.length_cons] at hb hk
    rw [Memory.storeBytes]
    cases k with
    | zero =>
      rw [Memory.read_storeBytes_outside _ (by omega)]
      simpa using Memory.read_write_self hw base b
    | succ k =>
      have := ih (m := m.write base b) (Memory.wf_write hw (by omega) b) (base := base + 1) (k := k) (by omega) (by omega)
      simpa [Nat.add_assoc, Nat.add_comm 1 k] using this

@[simp] theorem Memory.length_loadBytes (m : Memory) (base count : Nat) : (m.loadBytes base count).length = count := by
  induction count generalizing base with
  | zero => rfl
  | succ k ih => simp [Memory.loadBytes, ih]

/-- The k-th byte loaded is the byte at base + k. -/
theorem Memory.getElem_loadBytes (m : Memory) (base count k : Nat) (h : k < (m.loadBytes base count).length) :
    (m.loadBytes base count)[k] = m.read (base + k) := by
  induction count generalizing base k with
  | zero => simp at h
  | succ n ih =>
    cases k with
    | zero => rfl
    | succ k =>
      have hk : k < n := by simpa using h
      simp only [Memory.loadBytes, List.getElem_cons_succ]
      rw [ih (base + 1) k (by simpa using hk)]
      congr 1
      omega

/-! ### Reading what is listed -/

/-- In a canonical memory an address that is listed reads as its entry. -/
theorem Memory.read_of_mem {m : Memory} (h : m.Pairwise (fun c d => c.1 < d.1)) {a : Nat} {v : Byte}
    (hm : (a, v) ∈ m) : m.read a = v := by
  induction m with
  | nil => simp at hm
  | cons d rest ih =>
    obtain ⟨b, u⟩ := d
    have hr := List.pairwise_cons.mp h
    rcases List.mem_cons.mp hm with hc | hc
    · cases hc; simp [Memory.read]
    · have : b < a := hr.1 _ hc
      simp only [Memory.read]
      rw [if_neg (by omega)]
      exact ih hr.2 hc

/-- An address that is not listed reads as the background. -/
theorem Memory.read_of_not_mem {m : Memory} {a : Nat} (h : ∀ v, (a, v) ∉ m) : m.read a = Memory.background a := by
  induction m with
  | nil => rfl
  | cons d rest ih =>
    obtain ⟨b, u⟩ := d
    have hab : a ≠ b := fun e => h u (by simp [e])
    simp only [Memory.read]
    rw [if_neg hab]
    exact ih (fun v hv => h v (by simp [hv]))

end Sys2Proof.Machine
end

