-- ==== Sys2Proof/Laws/State.lean ====
section
/-! SUPPORT. What each state update leaves in each field: one lemma per field per update, true by rfl, so that no proof
unfolds a record update. -/

namespace Sys2Proof.Machine

/-! ### setReg -/

@[simp] theorem State.setReg_v (s : State) (r : RegIdx) (b : Byte) : (s.setReg r b).v = s.v.set r.val b := rfl
@[simp] theorem State.setReg_i (s : State) (r : RegIdx) (b : Byte) : (s.setReg r b).i = s.i := rfl
@[simp] theorem State.setReg_pc (s : State) (r : RegIdx) (b : Byte) : (s.setReg r b).pc = s.pc := rfl
@[simp] theorem State.setReg_stack (s : State) (r : RegIdx) (b : Byte) : (s.setReg r b).stack = s.stack := rfl
@[simp] theorem State.setReg_sp (s : State) (r : RegIdx) (b : Byte) : (s.setReg r b).sp = s.sp := rfl
@[simp] theorem State.setReg_mem (s : State) (r : RegIdx) (b : Byte) : (s.setReg r b).mem = s.mem := rfl
@[simp] theorem State.setReg_disp (s : State) (r : RegIdx) (b : Byte) : (s.setReg r b).disp = s.disp := rfl
@[simp] theorem State.setReg_keys (s : State) (r : RegIdx) (b : Byte) : (s.setReg r b).keys = s.keys := rfl
@[simp] theorem State.setReg_dt (s : State) (r : RegIdx) (b : Byte) : (s.setReg r b).dt = s.dt := rfl
@[simp] theorem State.setReg_st (s : State) (r : RegIdx) (b : Byte) : (s.setReg r b).st = s.st := rfl
@[simp] theorem State.setReg_acc (s : State) (r : RegIdx) (b : Byte) : (s.setReg r b).acc = s.acc := rfl
@[simp] theorem State.setReg_params (s : State) (r : RegIdx) (b : Byte) : (s.setReg r b).params = s.params := rfl
@[simp] theorem State.setReg_faultLatch (s : State) (r : RegIdx) (b : Byte) : (s.setReg r b).faultLatch = s.faultLatch := rfl
@[simp] theorem State.setReg_result (s : State) (r : RegIdx) (b : Byte) : (s.setReg r b).result = s.result := rfl
@[simp] theorem State.setReg_instrPc (s : State) (r : RegIdx) (b : Byte) : (s.setReg r b).instrPc = s.instrPc := rfl
@[simp] theorem State.setReg_opcode (s : State) (r : RegIdx) (b : Byte) : (s.setReg r b).opcode = s.opcode := rfl
@[simp] theorem State.setReg_draws (s : State) (r : RegIdx) (b : Byte) : (s.setReg r b).draws = s.draws := rfl

/-! ### setI -/

@[simp] theorem State.setI_v (s : State) (w : Word) : (s.setI w).v = s.v := rfl
@[simp] theorem State.setI_i (s : State) (w : Word) : (s.setI w).i = w := rfl
@[simp] theorem State.setI_pc (s : State) (w : Word) : (s.setI w).pc = s.pc := rfl
@[simp] theorem State.setI_stack (s : State) (w : Word) : (s.setI w).stack = s.stack := rfl
@[simp] theorem State.setI_sp (s : State) (w : Word) : (s.setI w).sp = s.sp := rfl
@[simp] theorem State.setI_mem (s : State) (w : Word) : (s.setI w).mem = s.mem := rfl
@[simp] theorem State.setI_disp (s : State) (w : Word) : (s.setI w).disp = s.disp := rfl
@[simp] theorem State.setI_keys (s : State) (w : Word) : (s.setI w).keys = s.keys := rfl
@[simp] theorem State.setI_dt (s : State) (w : Word) : (s.setI w).dt = s.dt := rfl
@[simp] theorem State.setI_st (s : State) (w : Word) : (s.setI w).st = s.st := rfl
@[simp] theorem State.setI_acc (s : State) (w : Word) : (s.setI w).acc = s.acc := rfl
@[simp] theorem State.setI_params (s : State) (w : Word) : (s.setI w).params = s.params := rfl
@[simp] theorem State.setI_faultLatch (s : State) (w : Word) : (s.setI w).faultLatch = s.faultLatch := rfl
@[simp] theorem State.setI_result (s : State) (w : Word) : (s.setI w).result = s.result := rfl
@[simp] theorem State.setI_instrPc (s : State) (w : Word) : (s.setI w).instrPc = s.instrPc := rfl
@[simp] theorem State.setI_opcode (s : State) (w : Word) : (s.setI w).opcode = s.opcode := rfl
@[simp] theorem State.setI_draws (s : State) (w : Word) : (s.setI w).draws = s.draws := rfl

/-! ### setPc -/

@[simp] theorem State.setPc_v (s : State) (w : Word) : (s.setPc w).v = s.v := rfl
@[simp] theorem State.setPc_i (s : State) (w : Word) : (s.setPc w).i = s.i := rfl
@[simp] theorem State.setPc_pc (s : State) (w : Word) : (s.setPc w).pc = w := rfl
@[simp] theorem State.setPc_stack (s : State) (w : Word) : (s.setPc w).stack = s.stack := rfl
@[simp] theorem State.setPc_sp (s : State) (w : Word) : (s.setPc w).sp = s.sp := rfl
@[simp] theorem State.setPc_mem (s : State) (w : Word) : (s.setPc w).mem = s.mem := rfl
@[simp] theorem State.setPc_disp (s : State) (w : Word) : (s.setPc w).disp = s.disp := rfl
@[simp] theorem State.setPc_keys (s : State) (w : Word) : (s.setPc w).keys = s.keys := rfl
@[simp] theorem State.setPc_dt (s : State) (w : Word) : (s.setPc w).dt = s.dt := rfl
@[simp] theorem State.setPc_st (s : State) (w : Word) : (s.setPc w).st = s.st := rfl
@[simp] theorem State.setPc_acc (s : State) (w : Word) : (s.setPc w).acc = s.acc := rfl
@[simp] theorem State.setPc_params (s : State) (w : Word) : (s.setPc w).params = s.params := rfl
@[simp] theorem State.setPc_faultLatch (s : State) (w : Word) : (s.setPc w).faultLatch = s.faultLatch := rfl
@[simp] theorem State.setPc_result (s : State) (w : Word) : (s.setPc w).result = s.result := rfl
@[simp] theorem State.setPc_instrPc (s : State) (w : Word) : (s.setPc w).instrPc = s.instrPc := rfl
@[simp] theorem State.setPc_opcode (s : State) (w : Word) : (s.setPc w).opcode = s.opcode := rfl
@[simp] theorem State.setPc_draws (s : State) (w : Word) : (s.setPc w).draws = s.draws := rfl

/-! ### skipIf -/

@[simp] theorem State.skipIf_v (s : State) (c : Bool) : (s.skipIf c).v = s.v := rfl
@[simp] theorem State.skipIf_i (s : State) (c : Bool) : (s.skipIf c).i = s.i := rfl
@[simp] theorem State.skipIf_pc (s : State) (c : Bool) : (s.skipIf c).pc = if c then s.pc + 2 else s.pc := rfl
@[simp] theorem State.skipIf_stack (s : State) (c : Bool) : (s.skipIf c).stack = s.stack := rfl
@[simp] theorem State.skipIf_sp (s : State) (c : Bool) : (s.skipIf c).sp = s.sp := rfl
@[simp] theorem State.skipIf_mem (s : State) (c : Bool) : (s.skipIf c).mem = s.mem := rfl
@[simp] theorem State.skipIf_disp (s : State) (c : Bool) : (s.skipIf c).disp = s.disp := rfl
@[simp] theorem State.skipIf_keys (s : State) (c : Bool) : (s.skipIf c).keys = s.keys := rfl
@[simp] theorem State.skipIf_dt (s : State) (c : Bool) : (s.skipIf c).dt = s.dt := rfl
@[simp] theorem State.skipIf_st (s : State) (c : Bool) : (s.skipIf c).st = s.st := rfl
@[simp] theorem State.skipIf_acc (s : State) (c : Bool) : (s.skipIf c).acc = s.acc := rfl
@[simp] theorem State.skipIf_params (s : State) (c : Bool) : (s.skipIf c).params = s.params := rfl
@[simp] theorem State.skipIf_faultLatch (s : State) (c : Bool) : (s.skipIf c).faultLatch = s.faultLatch := rfl
@[simp] theorem State.skipIf_result (s : State) (c : Bool) : (s.skipIf c).result = s.result := rfl
@[simp] theorem State.skipIf_instrPc (s : State) (c : Bool) : (s.skipIf c).instrPc = s.instrPc := rfl
@[simp] theorem State.skipIf_opcode (s : State) (c : Bool) : (s.skipIf c).opcode = s.opcode := rfl
@[simp] theorem State.skipIf_draws (s : State) (c : Bool) : (s.skipIf c).draws = s.draws := rfl

/-! ### rollBack -/

@[simp] theorem State.rollBack_v (s : State) : (s.rollBack).v = s.v := rfl
@[simp] theorem State.rollBack_i (s : State) : (s.rollBack).i = s.i := rfl
@[simp] theorem State.rollBack_pc (s : State) : (s.rollBack).pc = s.pc - 2 := rfl
@[simp] theorem State.rollBack_stack (s : State) : (s.rollBack).stack = s.stack := rfl
@[simp] theorem State.rollBack_sp (s : State) : (s.rollBack).sp = s.sp := rfl
@[simp] theorem State.rollBack_mem (s : State) : (s.rollBack).mem = s.mem := rfl
@[simp] theorem State.rollBack_disp (s : State) : (s.rollBack).disp = s.disp := rfl
@[simp] theorem State.rollBack_keys (s : State) : (s.rollBack).keys = s.keys := rfl
@[simp] theorem State.rollBack_dt (s : State) : (s.rollBack).dt = s.dt := rfl
@[simp] theorem State.rollBack_st (s : State) : (s.rollBack).st = s.st := rfl
@[simp] theorem State.rollBack_acc (s : State) : (s.rollBack).acc = s.acc := rfl
@[simp] theorem State.rollBack_params (s : State) : (s.rollBack).params = s.params := rfl
@[simp] theorem State.rollBack_faultLatch (s : State) : (s.rollBack).faultLatch = s.faultLatch := rfl
@[simp] theorem State.rollBack_result (s : State) : (s.rollBack).result = s.result := rfl
@[simp] theorem State.rollBack_instrPc (s : State) : (s.rollBack).instrPc = s.instrPc := rfl
@[simp] theorem State.rollBack_opcode (s : State) : (s.rollBack).opcode = s.opcode := rfl
@[simp] theorem State.rollBack_draws (s : State) : (s.rollBack).draws = s.draws := rfl

/-! ### raise -/

@[simp] theorem State.raise_v (s : State) (r : ErrorRecord) : (s.raise r).v = s.v := rfl
@[simp] theorem State.raise_i (s : State) (r : ErrorRecord) : (s.raise r).i = s.i := rfl
@[simp] theorem State.raise_pc (s : State) (r : ErrorRecord) : (s.raise r).pc = s.pc := rfl
@[simp] theorem State.raise_stack (s : State) (r : ErrorRecord) : (s.raise r).stack = s.stack := rfl
@[simp] theorem State.raise_sp (s : State) (r : ErrorRecord) : (s.raise r).sp = s.sp := rfl
@[simp] theorem State.raise_mem (s : State) (r : ErrorRecord) : (s.raise r).mem = s.mem := rfl
@[simp] theorem State.raise_disp (s : State) (r : ErrorRecord) : (s.raise r).disp = s.disp := rfl
@[simp] theorem State.raise_keys (s : State) (r : ErrorRecord) : (s.raise r).keys = s.keys := rfl
@[simp] theorem State.raise_dt (s : State) (r : ErrorRecord) : (s.raise r).dt = s.dt := rfl
@[simp] theorem State.raise_st (s : State) (r : ErrorRecord) : (s.raise r).st = s.st := rfl
@[simp] theorem State.raise_acc (s : State) (r : ErrorRecord) : (s.raise r).acc = s.acc := rfl
@[simp] theorem State.raise_params (s : State) (r : ErrorRecord) : (s.raise r).params = s.params := rfl
@[simp] theorem State.raise_faultLatch (s : State) (r : ErrorRecord) : (s.raise r).faultLatch = true := rfl
@[simp] theorem State.raise_result (s : State) (r : ErrorRecord) : (s.raise r).result = .err r := rfl
@[simp] theorem State.raise_instrPc (s : State) (r : ErrorRecord) : (s.raise r).instrPc = s.instrPc := rfl
@[simp] theorem State.raise_opcode (s : State) (r : ErrorRecord) : (s.raise r).opcode = s.opcode := rfl
@[simp] theorem State.raise_draws (s : State) (r : ErrorRecord) : (s.raise r).draws = s.draws := rfl

/-! ### raiseHere -/

@[simp] theorem State.raiseHere_v (s : State) (k : ErrorKind) (d : Detail) : (s.raiseHere k d).v = s.v := rfl
@[simp] theorem State.raiseHere_i (s : State) (k : ErrorKind) (d : Detail) : (s.raiseHere k d).i = s.i := rfl
@[simp] theorem State.raiseHere_pc (s : State) (k : ErrorKind) (d : Detail) : (s.raiseHere k d).pc = s.pc := rfl
@[simp] theorem State.raiseHere_stack (s : State) (k : ErrorKind) (d : Detail) : (s.raiseHere k d).stack = s.stack := rfl
@[simp] theorem State.raiseHere_sp (s : State) (k : ErrorKind) (d : Detail) : (s.raiseHere k d).sp = s.sp := rfl
@[simp] theorem State.raiseHere_mem (s : State) (k : ErrorKind) (d : Detail) : (s.raiseHere k d).mem = s.mem := rfl
@[simp] theorem State.raiseHere_disp (s : State) (k : ErrorKind) (d : Detail) : (s.raiseHere k d).disp = s.disp := rfl
@[simp] theorem State.raiseHere_keys (s : State) (k : ErrorKind) (d : Detail) : (s.raiseHere k d).keys = s.keys := rfl
@[simp] theorem State.raiseHere_dt (s : State) (k : ErrorKind) (d : Detail) : (s.raiseHere k d).dt = s.dt := rfl
@[simp] theorem State.raiseHere_st (s : State) (k : ErrorKind) (d : Detail) : (s.raiseHere k d).st = s.st := rfl
@[simp] theorem State.raiseHere_acc (s : State) (k : ErrorKind) (d : Detail) : (s.raiseHere k d).acc = s.acc := rfl
@[simp] theorem State.raiseHere_params (s : State) (k : ErrorKind) (d : Detail) : (s.raiseHere k d).params = s.params := rfl
@[simp] theorem State.raiseHere_faultLatch (s : State) (k : ErrorKind) (d : Detail) : (s.raiseHere k d).faultLatch = true := rfl
@[simp] theorem State.raiseHere_result (s : State) (k : ErrorKind) (d : Detail) : (s.raiseHere k d).result = .err { kind := k, pc := s.instrPc, opcode := some s.opcode, detail := d } := rfl
@[simp] theorem State.raiseHere_instrPc (s : State) (k : ErrorKind) (d : Detail) : (s.raiseHere k d).instrPc = s.instrPc := rfl
@[simp] theorem State.raiseHere_opcode (s : State) (k : ErrorKind) (d : Detail) : (s.raiseHere k d).opcode = s.opcode := rfl
@[simp] theorem State.raiseHere_draws (s : State) (k : ErrorKind) (d : Detail) : (s.raiseHere k d).draws = s.draws := rfl

/-! ### push -/

@[simp] theorem State.push_v (s : State) (w : Word) (h : s.sp.val < 16) : (s.push w h).v = s.v := rfl
@[simp] theorem State.push_i (s : State) (w : Word) (h : s.sp.val < 16) : (s.push w h).i = s.i := rfl
@[simp] theorem State.push_pc (s : State) (w : Word) (h : s.sp.val < 16) : (s.push w h).pc = s.pc := rfl
@[simp] theorem State.push_stack (s : State) (w : Word) (h : s.sp.val < 16) : (s.push w h).stack = s.stack.set s.sp.val w := rfl
@[simp] theorem State.push_sp (s : State) (w : Word) (h : s.sp.val < 16) : (s.push w h).sp = ⟨s.sp.val + 1, by omega⟩ := rfl
@[simp] theorem State.push_mem (s : State) (w : Word) (h : s.sp.val < 16) : (s.push w h).mem = s.mem := rfl
@[simp] theorem State.push_disp (s : State) (w : Word) (h : s.sp.val < 16) : (s.push w h).disp = s.disp := rfl
@[simp] theorem State.push_keys (s : State) (w : Word) (h : s.sp.val < 16) : (s.push w h).keys = s.keys := rfl
@[simp] theorem State.push_dt (s : State) (w : Word) (h : s.sp.val < 16) : (s.push w h).dt = s.dt := rfl
@[simp] theorem State.push_st (s : State) (w : Word) (h : s.sp.val < 16) : (s.push w h).st = s.st := rfl
@[simp] theorem State.push_acc (s : State) (w : Word) (h : s.sp.val < 16) : (s.push w h).acc = s.acc := rfl
@[simp] theorem State.push_params (s : State) (w : Word) (h : s.sp.val < 16) : (s.push w h).params = s.params := rfl
@[simp] theorem State.push_faultLatch (s : State) (w : Word) (h : s.sp.val < 16) : (s.push w h).faultLatch = s.faultLatch := rfl
@[simp] theorem State.push_result (s : State) (w : Word) (h : s.sp.val < 16) : (s.push w h).result = s.result := rfl
@[simp] theorem State.push_instrPc (s : State) (w : Word) (h : s.sp.val < 16) : (s.push w h).instrPc = s.instrPc := rfl
@[simp] theorem State.push_opcode (s : State) (w : Word) (h : s.sp.val < 16) : (s.push w h).opcode = s.opcode := rfl
@[simp] theorem State.push_draws (s : State) (w : Word) (h : s.sp.val < 16) : (s.push w h).draws = s.draws := rfl

/-! ### popPc -/

@[simp] theorem State.popPc_v (s : State) (h : 0 < s.sp.val) : (s.popPc h).v = s.v := rfl
@[simp] theorem State.popPc_i (s : State) (h : 0 < s.sp.val) : (s.popPc h).i = s.i := rfl
@[simp] theorem State.popPc_pc (s : State) (h : 0 < s.sp.val) : (s.popPc h).pc = s.stack[s.sp.val - 1]'(by omega) := rfl
@[simp] theorem State.popPc_stack (s : State) (h : 0 < s.sp.val) : (s.popPc h).stack = s.stack := rfl
@[simp] theorem State.popPc_sp (s : State) (h : 0 < s.sp.val) : (s.popPc h).sp = ⟨s.sp.val - 1, by omega⟩ := rfl
@[simp] theorem State.popPc_mem (s : State) (h : 0 < s.sp.val) : (s.popPc h).mem = s.mem := rfl
@[simp] theorem State.popPc_disp (s : State) (h : 0 < s.sp.val) : (s.popPc h).disp = s.disp := rfl
@[simp] theorem State.popPc_keys (s : State) (h : 0 < s.sp.val) : (s.popPc h).keys = s.keys := rfl
@[simp] theorem State.popPc_dt (s : State) (h : 0 < s.sp.val) : (s.popPc h).dt = s.dt := rfl
@[simp] theorem State.popPc_st (s : State) (h : 0 < s.sp.val) : (s.popPc h).st = s.st := rfl
@[simp] theorem State.popPc_acc (s : State) (h : 0 < s.sp.val) : (s.popPc h).acc = s.acc := rfl
@[simp] theorem State.popPc_params (s : State) (h : 0 < s.sp.val) : (s.popPc h).params = s.params := rfl
@[simp] theorem State.popPc_faultLatch (s : State) (h : 0 < s.sp.val) : (s.popPc h).faultLatch = s.faultLatch := rfl
@[simp] theorem State.popPc_result (s : State) (h : 0 < s.sp.val) : (s.popPc h).result = s.result := rfl
@[simp] theorem State.popPc_instrPc (s : State) (h : 0 < s.sp.val) : (s.popPc h).instrPc = s.instrPc := rfl
@[simp] theorem State.popPc_opcode (s : State) (h : 0 < s.sp.val) : (s.popPc h).opcode = s.opcode := rfl
@[simp] theorem State.popPc_draws (s : State) (h : 0 < s.sp.val) : (s.popPc h).draws = s.draws := rfl

/-! ### failFetch -/

@[simp] theorem State.failFetch_v (s : State) (a : Nat) : (s.failFetch a).v = s.v := rfl
@[simp] theorem State.failFetch_i (s : State) (a : Nat) : (s.failFetch a).i = s.i := rfl
@[simp] theorem State.failFetch_pc (s : State) (a : Nat) : (s.failFetch a).pc = s.pc := rfl
@[simp] theorem State.failFetch_stack (s : State) (a : Nat) : (s.failFetch a).stack = s.stack := rfl
@[simp] theorem State.failFetch_sp (s : State) (a : Nat) : (s.failFetch a).sp = s.sp := rfl
@[simp] theorem State.failFetch_mem (s : State) (a : Nat) : (s.failFetch a).mem = s.mem := rfl
@[simp] theorem State.failFetch_disp (s : State) (a : Nat) : (s.failFetch a).disp = s.disp := rfl
@[simp] theorem State.failFetch_keys (s : State) (a : Nat) : (s.failFetch a).keys = s.keys := rfl
@[simp] theorem State.failFetch_dt (s : State) (a : Nat) : (s.failFetch a).dt = s.dt := rfl
@[simp] theorem State.failFetch_st (s : State) (a : Nat) : (s.failFetch a).st = s.st := rfl
@[simp] theorem State.failFetch_acc (s : State) (a : Nat) : (s.failFetch a).acc = s.acc := rfl
@[simp] theorem State.failFetch_params (s : State) (a : Nat) : (s.failFetch a).params = s.params := rfl
@[simp] theorem State.failFetch_faultLatch (s : State) (a : Nat) : (s.failFetch a).faultLatch = true := rfl
@[simp] theorem State.failFetch_result (s : State) (a : Nat) : (s.failFetch a).result = .err { kind := .outOfBoundsAccess, pc := s.pc, opcode := none, detail := .address a } := rfl
@[simp] theorem State.failFetch_instrPc (s : State) (a : Nat) : (s.failFetch a).instrPc = s.instrPc := rfl
@[simp] theorem State.failFetch_opcode (s : State) (a : Nat) : (s.failFetch a).opcode = s.opcode := rfl
@[simp] theorem State.failFetch_draws (s : State) (a : Nat) : (s.failFetch a).draws = s.draws := rfl

/-! ### beginStep -/

@[simp] theorem State.beginStep_v (s : State) (w : Word) : (s.beginStep w).v = s.v := rfl
@[simp] theorem State.beginStep_i (s : State) (w : Word) : (s.beginStep w).i = s.i := rfl
@[simp] theorem State.beginStep_pc (s : State) (w : Word) : (s.beginStep w).pc = s.pc + 2 := rfl
@[simp] theorem State.beginStep_stack (s : State) (w : Word) : (s.beginStep w).stack = s.stack := rfl
@[simp] theorem State.beginStep_sp (s : State) (w : Word) : (s.beginStep w).sp = s.sp := rfl
@[simp] theorem State.beginStep_mem (s : State) (w : Word) : (s.beginStep w).mem = s.mem := rfl
@[simp] theorem State.beginStep_disp (s : State) (w : Word) : (s.beginStep w).disp = s.disp := rfl
@[simp] theorem State.beginStep_keys (s : State) (w : Word) : (s.beginStep w).keys = s.keys := rfl
@[simp] theorem State.beginStep_dt (s : State) (w : Word) : (s.beginStep w).dt = s.dt := rfl
@[simp] theorem State.beginStep_st (s : State) (w : Word) : (s.beginStep w).st = s.st := rfl
@[simp] theorem State.beginStep_acc (s : State) (w : Word) : (s.beginStep w).acc = s.acc := rfl
@[simp] theorem State.beginStep_params (s : State) (w : Word) : (s.beginStep w).params = s.params := rfl
@[simp] theorem State.beginStep_faultLatch (s : State) (w : Word) : (s.beginStep w).faultLatch = s.faultLatch := rfl
@[simp] theorem State.beginStep_result (s : State) (w : Word) : (s.beginStep w).result = .ok w := rfl
@[simp] theorem State.beginStep_instrPc (s : State) (w : Word) : (s.beginStep w).instrPc = s.pc := rfl
@[simp] theorem State.beginStep_opcode (s : State) (w : Word) : (s.beginStep w).opcode = w := rfl
@[simp] theorem State.beginStep_draws (s : State) (w : Word) : (s.beginStep w).draws = s.draws := rfl

/-! ### setRegFlag -/

@[simp] theorem State.setRegFlag_v (s : State) (x : RegIdx) (r : Byte) (f : Bool) : (s.setRegFlag x r f).v = (s.v.set x.val r).set vf.val (flagByte f) := rfl
@[simp] theorem State.setRegFlag_i (s : State) (x : RegIdx) (r : Byte) (f : Bool) : (s.setRegFlag x r f).i = s.i := rfl
@[simp] theorem State.setRegFlag_pc (s : State) (x : RegIdx) (r : Byte) (f : Bool) : (s.setRegFlag x r f).pc = s.pc := rfl
@[simp] theorem State.setRegFlag_stack (s : State) (x : RegIdx) (r : Byte) (f : Bool) : (s.setRegFlag x r f).stack = s.stack := rfl
@[simp] theorem State.setRegFlag_sp (s : State) (x : RegIdx) (r : Byte) (f : Bool) : (s.setRegFlag x r f).sp = s.sp := rfl
@[simp] theorem State.setRegFlag_mem (s : State) (x : RegIdx) (r : Byte) (f : Bool) : (s.setRegFlag x r f).mem = s.mem := rfl
@[simp] theorem State.setRegFlag_disp (s : State) (x : RegIdx) (r : Byte) (f : Bool) : (s.setRegFlag x r f).disp = s.disp := rfl
@[simp] theorem State.setRegFlag_keys (s : State) (x : RegIdx) (r : Byte) (f : Bool) : (s.setRegFlag x r f).keys = s.keys := rfl
@[simp] theorem State.setRegFlag_dt (s : State) (x : RegIdx) (r : Byte) (f : Bool) : (s.setRegFlag x r f).dt = s.dt := rfl
@[simp] theorem State.setRegFlag_st (s : State) (x : RegIdx) (r : Byte) (f : Bool) : (s.setRegFlag x r f).st = s.st := rfl
@[simp] theorem State.setRegFlag_acc (s : State) (x : RegIdx) (r : Byte) (f : Bool) : (s.setRegFlag x r f).acc = s.acc := rfl
@[simp] theorem State.setRegFlag_params (s : State) (x : RegIdx) (r : Byte) (f : Bool) : (s.setRegFlag x r f).params = s.params := rfl
@[simp] theorem State.setRegFlag_faultLatch (s : State) (x : RegIdx) (r : Byte) (f : Bool) : (s.setRegFlag x r f).faultLatch = s.faultLatch := rfl
@[simp] theorem State.setRegFlag_result (s : State) (x : RegIdx) (r : Byte) (f : Bool) : (s.setRegFlag x r f).result = s.result := rfl
@[simp] theorem State.setRegFlag_instrPc (s : State) (x : RegIdx) (r : Byte) (f : Bool) : (s.setRegFlag x r f).instrPc = s.instrPc := rfl
@[simp] theorem State.setRegFlag_opcode (s : State) (x : RegIdx) (r : Byte) (f : Bool) : (s.setRegFlag x r f).opcode = s.opcode := rfl
@[simp] theorem State.setRegFlag_draws (s : State) (x : RegIdx) (r : Byte) (f : Bool) : (s.setRegFlag x r f).draws = s.draws := rfl

end Sys2Proof.Machine
end

