-- ==== Sys2Proof/Laws/Ops.lean ====
section
/-! SUPPORT. One lemma per shared operation that says once what it can do: registers, the bounds check, the fetch, the
keyboard scan, pixels, operands. -/

namespace Sys2Proof.Machine

/-! ### Registers -/

theorem State.reg_setReg (s : State) (x r : RegIdx) (b : Byte) :
    (s.setReg x b).reg r = if r = x then b else s.reg r := by
  unfold State.reg State.setReg
  by_cases h : r = x
  · subst h; simp
  · have : x.val ≠ r.val := fun e => h (Fin.ext e.symm)
    simp [h, this]

@[simp] theorem State.reg_setReg_self (s : State) (x : RegIdx) (b : Byte) : (s.setReg x b).reg x = b := by
  simp [State.reg_setReg]

theorem State.reg_setReg_ne (s : State) {x r : RegIdx} (b : Byte) (h : r ≠ x) : (s.setReg x b).reg r = s.reg r := by
  simp [State.reg_setReg, h]

/-- The flag is written last: it is what VF holds, and Vx keeps the result only when x is not 15. -/
theorem State.reg_setRegFlag (s : State) (x r : RegIdx) (b : Byte) (f : Bool) :
    (s.setRegFlag x b f).reg r = if r = vf then flagByte f else if r = x then b else s.reg r := by
  simp [State.setRegFlag, State.reg_setReg]

theorem State.reg_setRegFlag_flag (s : State) (x : RegIdx) (b : Byte) (f : Bool) :
    (s.setRegFlag x b f).reg 15 = flagByte f := by
  rw [State.reg_setRegFlag]; exact if_pos rfl

theorem State.reg_setRegFlag_dest (s : State) {x : RegIdx} (b : Byte) (f : Bool) (h : x ≠ 15) :
    (s.setRegFlag x b f).reg x = b := by
  rw [State.reg_setRegFlag, if_pos rfl]; exact if_neg h

theorem State.reg_setRegFlag_other (s : State) {x r : RegIdx} (b : Byte) (f : Bool) (hx : r ≠ x) (hf : r ≠ 15) :
    (s.setRegFlag x b f).reg r = s.reg r := by
  rw [State.reg_setRegFlag, if_neg hx]; exact if_neg hf

/-- Two register files that agree register by register are equal. -/
theorem State.v_ext {s t : State} (h : ∀ r, s.reg r = t.reg r) : s.v = t.v := by
  apply Vector.ext
  intro k hk
  exact h ⟨k, hk⟩

/-! ### The bounds check -/

theorem firstIllegal_eq_none {base last : Nat} : firstIllegal base last = none ↔ last ≤ 0xFFF := by
  unfold firstIllegal; split <;> simp <;> omega

theorem firstIllegal_eq_some {base last : Nat} (h : 0xFFF < last) :
    firstIllegal base last = some (max base 0x1000) := by
  unfold firstIllegal; rw [if_pos h]

/-- In range, the access is done. -/
theorem State.checkIndexed_ok (s : State) {count : Nat} (done : State) (h : s.i.toNat + count - 1 ≤ 0xFFF) :
    s.checkIndexed count done = done := by
  unfold State.checkIndexed
  rw [firstIllegal_eq_none.mpr h]

/-- Out of range, the error is raised and nothing else is done. -/
theorem State.checkIndexed_err (s : State) {count : Nat} (done : State) (h : 0xFFF < s.i.toNat + count - 1) :
    s.checkIndexed count done = s.raiseHere .outOfBoundsAccess (.address (max s.i.toNat 0x1000)) := by
  unfold State.checkIndexed
  rw [firstIllegal_eq_some h]

/-- All that a checked access can do. -/
theorem State.checkIndexed_cases (s : State) (count : Nat) (done : State) :
    (s.i.toNat + count - 1 ≤ 0xFFF ∧ s.checkIndexed count done = done) ∨
    (0xFFF < s.i.toNat + count - 1 ∧
      s.checkIndexed count done = s.raiseHere .outOfBoundsAccess (.address (max s.i.toNat 0x1000))) := by
  rcases Nat.lt_or_ge 0xFFF (s.i.toNat + count - 1) with h | h
  · exact .inr ⟨h, s.checkIndexed_err done h⟩
  · exact .inl ⟨h, s.checkIndexed_ok done h⟩

/-! ### The fetch -/

/-- Where both bytes exist, the fetch gives them, the lower address first. -/
theorem State.fetchWord_ok (s : State) (h : s.pc.toNat + 1 ≤ 0xFFF) :
    s.fetchWord = .ok (s.readByte s.pc.toNat ++ s.readByte (s.pc.toNat + 1)) := by
  unfold State.fetchWord State.readByte
  simp only
  rw [if_neg (by omega)]

/-- Where the second byte does not exist, the fetch gives the first illegal address. -/
theorem State.fetchWord_err (s : State) (h : 0xFFF < s.pc.toNat + 1) :
    s.fetchWord = .error (if s.pc.toNat > 0xFFF then s.pc.toNat else s.pc.toNat + 1) := by
  unfold State.fetchWord
  simp only
  rw [if_pos h]

/-! ### The keyboard -/

/-- The scan finds the lowest pressed key. -/
theorem State.firstKey_eq_some (s : State) (k : Fin 16) :
    s.firstKey = some k ↔ s.key k = true ∧ ∀ j, j < k → s.key j = false := by
  unfold State.firstKey
  rw [List.find?_eq_some_iff_getElem]
  constructor
  · rintro ⟨hk, i, hi, hget, hbefore⟩
    simp only [List.getElem_finRange] at hget hbefore
    refine ⟨hk, fun j hj => ?_⟩
    have hki : k.val = i := by rw [← hget]; rfl
    have := hbefore j.val (by omega)
    simpa using this
  · rintro ⟨hk, hbefore⟩
    refine ⟨hk, k.val, by simp, by simp, fun j hj => ?_⟩
    have := hbefore ⟨j, by omega⟩ (by exact hj)
    simpa using this

theorem State.firstKey_eq_none (s : State) : s.firstKey = none ↔ ∀ k, s.key k = false := by
  simp [State.firstKey]

/-- A key code is a register value below 16. -/
theorem keyOf_eq_some {b : Byte} (h : b.toNat < 16) : keyOf b = some ⟨b.toNat, h⟩ := by
  unfold keyOf; rw [dif_pos h]

theorem keyOf_eq_none {b : Byte} : keyOf b = none ↔ 15 < b.toNat := by
  unfold keyOf; split <;> simp <;> omega

/-! ### Pixels -/

theorem Display.pixel_setPixel (d : Display) (row row' : Fin 32) (col col' : Fin 64) (b : Bool) :
    (d.setPixel row col b).pixel row' col' = if row' = row ∧ col' = col then b else d.pixel row' col' := by
  unfold Display.pixel Display.setPixel
  by_cases hr : row' = row
  · subst hr
    by_cases hc : col' = col
    · subst hc; simp
    · have : col.val ≠ col'.val := fun e => hc (Fin.ext e.symm)
      simp [hc, this]
  · have : row.val ≠ row'.val := fun e => hr (Fin.ext e.symm)
    simp [hr, this]

@[simp] theorem Display.pixel_blank (row : Fin 32) (col : Fin 64) : Display.blank.pixel row col = false := by
  simp [Display.pixel, Display.blank]

/-- Two displays that agree pixel by pixel are equal. -/
theorem Display.ext_pixel {d e : Display} (h : ∀ row col, d.pixel row col = e.pixel row col) : d = e := by
  apply Vector.ext
  intro r hr
  apply Vector.ext
  intro c hc
  exact h ⟨r, hr⟩ ⟨c, hc⟩

/-! ### Operands -/

@[simp] theorem toNat_zext12 (nnn : Addr) : (zext12 nnn).toNat = nnn.toNat := by
  have := nnn.isLt
  simp [zext12]
  omega

@[simp] theorem toNat_zext8 (b : Byte) : (zext8 b).toNat = b.toNat := by
  have := b.isLt
  simp [zext8]
  omega

/-- 5 · 255 = 1275 fits 16 bits, so the font address never wraps. -/
theorem toNat_fontAddress (b : Byte) : (fontAddress b).toNat = 5 * b.toNat := by
  have := b.isLt
  simp only [fontAddress, Config.glyphSize, BitVec.toNat_ofNat]
  omega

theorem toNat_indexAfter (i : Word) (x : RegIdx) : (indexAfter i x).toNat = (i.toNat + x.val + 1) % 65536 := by
  have := x.isLt
  simp only [indexAfter, BitVec.toNat_add, BitVec.toNat_ofNat]
  omega

@[simp] theorem State.length_regsUpTo (s : State) (x : RegIdx) : (s.regsUpTo x).length = x.val + 1 := by
  have := x.isLt
  simp only [State.regsUpTo, List.length_take, Vector.length_toList]
  omega

theorem State.getElem_regsUpTo (s : State) (x : RegIdx) (k : Nat) (h : k < (s.regsUpTo x).length)
    (hk : k < 16) : (s.regsUpTo x)[k] = s.reg ⟨k, hk⟩ := by
  simp [State.regsUpTo, State.reg]

@[simp] theorem length_decimalDigits (b : Byte) : (decimalDigits b).length = 3 := rfl

end Sys2Proof.Machine
end

