-- ==== Sys2Proof/Laws/Draw.lean ====
section
/-! SUPPORT. What one sprite bit does to a display and to the collision flag; the loops of 44_draw.md R97 are inductions
over this lemma. -/

namespace Sys2Proof.Machine

/-- One sprite bit: its pixel is XORed with it, and every other pixel is left alone. -/
theorem pixel_xorPixel (row row' : Fin 32) (col col' : Fin 64) (bit : Bool) (p : Display × Bool) :
    (xorPixel row col bit p).1.pixel row' col' =
      ((p.1.pixel row' col') ^^ (bit && (row' = row && col' = col))) := by
  unfold xorPixel
  cases bit
  · simp
  · simp only [if_true, Display.pixel_setPixel, Bool.true_and]
    by_cases h : row' = row ∧ col' = col
    · obtain ⟨rfl, rfl⟩ := h; simp
    · rw [if_neg h]
      have : (decide (row' = row) && decide (col' = col)) = false := by simpa using h
      simp [this]

/-- One sprite bit: a collision when it is 1 and its pixel was 1. -/
theorem collision_xorPixel (row : Fin 32) (col : Fin 64) (bit : Bool) (p : Display × Bool) :
    (xorPixel row col bit p).2 = (p.2 || (bit && p.1.pixel row col)) := by
  unfold xorPixel
  cases bit <;> simp

/-- The first m bits of one sprite row: each pixel of the row is XORed with the bit that falls on it, and the flag says
whether a 1 bit fell on a 1 pixel. -/
theorem drawRow_prefix (X m : Nat) (hX : X < 64) (hm : m ≤ 64) (row : Fin 32) (b : Byte) (p : Display × Bool) :
    let q := (List.range m).foldl (fun q c => xorPixel row (wrapCol X c) (spriteBit b c) q) p
    (∀ row' col', q.1.pixel row' col' =
      (p.1.pixel row' col' ^^
        (decide (row' = row) && decide ((col'.val + 64 - X) % 64 < m) && spriteBit b ((col'.val + 64 - X) % 64)))) ∧
    (q.2 = true ↔ p.2 = true ∨ ∃ c, c < m ∧ spriteBit b c = true ∧ p.1.pixel row (wrapCol X c) = true) := by
  induction m with
  | zero => simp
  | succ m ih =>
    obtain ⟨hpix, hcol⟩ := ih (by omega)
    simp only [List.range_succ, List.foldl_append, List.foldl_cons, List.foldl_nil]
    have hwrap : ((wrapCol X m).val + 64 - X) % 64 = m := by simp only [wrapCol]; omega
    refine ⟨fun row' col' => ?_, ?_⟩
    · rw [pixel_xorPixel, hpix]
      have hiff : col' = wrapCol X m ↔ (col'.val + 64 - X) % 64 = m := by
        have := col'.isLt
        constructor
        · rintro rfl; exact hwrap
        · intro h; apply Fin.ext; simp only [wrapCol]; omega
      by_cases hr : row' = row
      · by_cases hc : col' = wrapCol X m
        · simp [hr, hc, hwrap]
        · have hne := mt hiff.mpr hc
          have hlt : ((col'.val + 64 - X) % 64 < m + 1) ↔ ((col'.val + 64 - X) % 64 < m) := by omega
          simp [hr, hc, hlt]
      · simp [hr]
    · rw [collision_xorPixel, hpix, hwrap]
      simp only [Bool.or_eq_true, hcol, Bool.and_eq_true, lt_irrefl, decide_false, Bool.and_false, Bool.false_and,
        Bool.xor_false]
      constructor
      · rintro ((h | ⟨c, h1, h2⟩) | h)
        · exact .inl h
        · exact .inr ⟨c, by omega, h2⟩
        · exact .inr ⟨m, by omega, h⟩
      · rintro (h | ⟨c, h1, h2⟩)
        · exact .inl (.inl h)
        · rcases Nat.lt_or_ge c m with h | h
          · exact .inl (.inr ⟨c, h, h2⟩)
          · obtain rfl : c = m := by omega
            exact .inr h2

/-- The sprite rows r, r + 1, …: every pixel is XORed with the sprite's bit on it, and the flag says whether some 1 bit
fell on a 1 pixel. -/
theorem drawRows_spec (X Y : Nat) (hX : X < 64) (hY : Y < 32) (sprite : List Byte) (r : Nat)
    (hr : r + sprite.length ≤ 32) (p : Display × Bool) :
    (∀ row col, (drawRows X Y r sprite p).1.pixel row col =
      (p.1.pixel row col ^^
        (decide (r ≤ (row.val + 32 - Y) % 32) && decide ((col.val + 64 - X) % 64 < 8) &&
          spriteBit (sprite.getD ((row.val + 32 - Y) % 32 - r) 0) ((col.val + 64 - X) % 64)))) ∧
    ((drawRows X Y r sprite p).2 = true ↔ p.2 = true ∨
      ∃ k c, k < sprite.length ∧ c < 8 ∧ spriteBit (sprite.getD k 0) c = true ∧
        p.1.pixel (wrapRow Y (r + k)) (wrapCol X c) = true) := by
  induction sprite generalizing r p with
  | nil => simp [drawRows, spriteBit]
  | cons b rest ih =>
    simp only [List.length_cons] at hr
    obtain ⟨hpix, hcol⟩ := drawRow_prefix X 8 hX (by omega) (wrapRow Y r) b p
    change (∀ row' col', (drawRow X (wrapRow Y r) b p).1.pixel row' col' = _) at hpix
    change ((drawRow X (wrapRow Y r) b p).2 = true ↔ _) at hcol
    obtain ⟨ipix, icol⟩ := ih (r + 1) (by omega) (drawRow X (wrapRow Y r) b p)
    simp only [drawRows]
    refine ⟨fun row col => ?_, ?_⟩
    · rw [ipix, hpix]
      have hiff : row = wrapRow Y r ↔ (row.val + 32 - Y) % 32 = r := by
        have := row.isLt
        constructor
        · rintro rfl; simp only [wrapRow]; omega
        · intro h; apply Fin.ext; simp only [wrapRow]; omega
      by_cases hrow : row = wrapRow Y r
      · have h := hiff.mp hrow
        rw [h]
        simp [hrow]
      · have h := mt hiff.mpr hrow
        generalize (row.val + 32 - Y) % 32 = r0 at h ⊢
        by_cases hlt : r + 1 ≤ r0
        · have h1 : r ≤ r0 := by omega
          obtain ⟨j, rfl⟩ : ∃ j, r0 = r + 1 + j := ⟨r0 - (r + 1), by omega⟩
          have e1 : r + 1 + j - (r + 1) = j := by omega
          have e2 : r + 1 + j - r = j + 1 := by omega
          simp [hrow, e1, e2, h1]
        · have h1 : ¬ r ≤ r0 := by omega
          simp [hrow, hlt, h1]
    · rw [icol, hcol]
      have hkeep : ∀ k c, k < rest.length → (drawRow X (wrapRow Y r) b p).1.pixel (wrapRow Y (r + 1 + k)) (wrapCol X c)
          = p.1.pixel (wrapRow Y (r + 1 + k)) (wrapCol X c) := by
        intro k c hk
        rw [hpix]
        have : wrapRow Y (r + 1 + k) ≠ wrapRow Y r := by
          intro e; have := congrArg Fin.val e; simp only [wrapRow] at this; omega
        simp [this]
      constructor
      · rintro ((h | ⟨c, h1, h2, h3⟩) | ⟨k, c, h1, h2, h3, h4⟩)
        · exact .inl h
        · exact .inr ⟨0, c, by simp, h1, h2, h3⟩
        · rw [hkeep k c h1] at h4
          exact .inr ⟨k + 1, c, by simpa using h1, h2, h3, by rwa [show r + (k + 1) = r + 1 + k by omega]⟩
      · rintro (h | ⟨k, c, h1, h2, h3, h4⟩)
        · exact .inl (.inl h)
        · cases k with
          | zero => exact .inl (.inr ⟨c, h2, h3, h4⟩)
          | succ k =>
            have hk : k < rest.length := by simpa using h1
            refine .inr ⟨k, c, hk, h2, h3, ?_⟩
            rw [hkeep k c hk, show r + 1 + k = r + (k + 1) by omega]
            exact h4

/-- A draw writes the display and VF and nothing else. -/
theorem State.blit_frame (s : State) (x y : RegIdx) (n : Fin 16) :
    s.blit x y n = { s with disp := (s.blit x y n).disp, v := (s.blit x y n).v } := rfl

end Sys2Proof.Machine
end

