-- ==== Sys2Proof/Laws/Exec.lean ====
section
/-! SUPPORT. What holds of every instruction: it leaves a next state, and it leaves alone what no instruction writes. -/

namespace Sys2Proof.Machine

/-- A checked access keeps whatever the access itself keeps and an error keeps. -/
theorem State.checkIndexed_keeps {α : Type} (f : State → α) (s : State) (count : Nat) (done : State)
    (hdone : f done = f s) (herr : ∀ k d, f (s.raiseHere k d) = f s) : f (s.checkIndexed count done) = f s := by
  rcases s.checkIndexed_cases count done with ⟨-, h⟩ | ⟨-, h⟩
  · rw [h, hdone]
  · rw [h, herr]

/-- No instruction stops the machine. -/
theorem exec_next (i : Instr) (s : State) : ∃ t, exec i s = .next t := by
  cases i with
  | ret => simp only [exec, execRet]; split <;> exact ⟨_, rfl⟩
  | callAddr => simp only [exec, execCallAddr]; split <;> exact ⟨_, rfl⟩
  | jpV0 => simp only [exec, execJpV0]; split <;> exact ⟨_, rfl⟩
  | drw => simp only [exec, execDrw]; split <;> exact ⟨_, rfl⟩
  | skp => simp only [exec, execSkp]; split <;> exact ⟨_, rfl⟩
  | sknp => simp only [exec, execSknp]; split <;> exact ⟨_, rfl⟩
  | ldVxK => simp only [exec, execLdVxK]; split <;> exact ⟨_, rfl⟩
  | _ => exact ⟨_, rfl⟩

/-- A part of the state that every named operation keeps, every instruction keeps: the keyboard, ACC, the parameters and
the arguments of the step in progress. -/
theorem exec_keeps_inputs {i : Instr} {s t : State} (h : exec i s = .next t) :
    t.keys = s.keys ∧ t.acc = s.acc ∧ t.params = s.params ∧ t.instrPc = s.instrPc ∧ t.opcode = s.opcode := by
  suffices hs : (fun u : State => (u.keys, u.acc, u.params, u.instrPc, u.opcode)) t =
      (s.keys, s.acc, s.params, s.instrPc, s.opcode) by simpa using hs
  cases i with
  | ret => simp only [exec, execRet] at h; split at h <;> cases h <;> rfl
  | callAddr => simp only [exec, execCallAddr] at h; split at h <;> cases h <;> rfl
  | jpV0 => simp only [exec, execJpV0] at h; split at h <;> cases h <;> rfl
  | drw =>
    simp only [exec, execDrw] at h
    split at h <;> cases h
    · rfl
    · exact s.checkIndexed_keeps (fun u => (u.keys, u.acc, u.params, u.instrPc, u.opcode)) _ _ rfl fun _ _ => rfl
  | ldB =>
    cases h
    exact s.checkIndexed_keeps (fun u => (u.keys, u.acc, u.params, u.instrPc, u.opcode)) _ _ rfl fun _ _ => rfl
  | ldMemVx =>
    cases h
    exact s.checkIndexed_keeps (fun u => (u.keys, u.acc, u.params, u.instrPc, u.opcode)) _ _ rfl fun _ _ => rfl
  | ldVxMem =>
    cases h
    exact s.checkIndexed_keeps (fun u => (u.keys, u.acc, u.params, u.instrPc, u.opcode)) _ _ rfl fun _ _ => rfl
  | skp => simp only [exec, execSkp] at h; split at h <;> cases h <;> rfl
  | sknp => simp only [exec, execSknp] at h; split at h <;> cases h <;> rfl
  | ldVxK => simp only [exec, execLdVxK] at h; split at h <;> cases h <;> rfl
  | _ => cases h; rfl

end Sys2Proof.Machine
end

