-- ==== Sys2Proof/Laws/HostCalls.lean ====
section
/-! SUPPORT. What a tick does on either side of its threshold, and that a session goes call by call. -/

namespace Sys2Proof.Machine

/-- Both timers lose 1, saturating at 0. -/
theorem toNat_countDown (t : Byte) : (countDown t).toNat = t.toNat - 1 := by
  revert t; decide

/-- Above the threshold. -/
theorem tick_of_crossed {elapsed : Nat} {s : State}
    (h : (s.acc + elapsed) * s.params.tickDen > s.params.tickNum) :
    tick elapsed s = { s with acc := s.acc + elapsed, dt := countDown s.dt, st := countDown s.st } := by
  unfold tick
  exact if_pos (decide_eq_true h)

/-- At the threshold or below it. -/
theorem tick_of_not_crossed {elapsed : Nat} {s : State}
    (h : (s.acc + elapsed) * s.params.tickDen ≤ s.params.tickNum) :
    tick elapsed s = { s with acc := s.acc + elapsed } := by
  unfold tick
  exact if_neg (by simpa [thresholdCrossed] using h)

/-- A session goes on from the state its first call leaves. -/
theorem session_cons {c : HostCall} {rest : List HostCall} {s t : State} (h : transact c s = .next t) :
    session (c :: rest) s = session rest t := by
  simp only [session, h]

end Sys2Proof.Machine
end

