-- ==== Sys2Proof/Laws/PerInstr.lean ====
section
/-! SUPPORT. Facts about every instruction as syntax, one lemma per constructor. Family InItsRow: the word an
instruction is encoded as is of the row of the decode table (spec/30_encoding.md R52) that builds the instruction back,
and that row takes part in decoding exactly when the instruction exists. -/

namespace Sys2Proof.Laws.InItsRow

def Statement (i : Instr) : Prop :=
  ∃ r ∈ decodeTable, r.matchesWord (encode i) = true ∧ r.build (encode i) = i ∧ ∀ b, r.present b = i.wf b

/-- The three facts about one row give the statement. -/
theorem of_row {i : Instr} (k : Nat) (hk : k < decodeTable.length)
    (hm : encode i &&& decodeTable[k].mask = decodeTable[k].pattern) (hb : decodeTable[k].build (encode i) = i)
    (hw : ∀ b, decodeTable[k].present b = i.wf b) : Statement i :=
  ⟨decodeTable[k], List.getElem_mem hk, by simpa [DecodeRow.matchesWord] using hm, hb, hw⟩

theorem cls : Statement .cls := of_row 0 (by decide) (by decide) rfl (fun b => by cases b <;> rfl)

theorem ret : Statement .ret := of_row 1 (by decide) (by decide) rfl (fun b => by cases b <;> rfl)

theorem jpAddr (nnn : Addr) : Statement (.jpAddr nnn) :=
  of_row 2 (by decide) (and_formNNN ..) (by dsimp only [decodeTable, decodeTableLow, decodeTableHigh, encode]; simp) (fun b => by cases b <;> rfl)

theorem callAddr (nnn : Addr) : Statement (.callAddr nnn) :=
  of_row 3 (by decide) (and_formNNN ..) (by dsimp only [decodeTable, decodeTableLow, decodeTableHigh, encode]; simp) (fun b => by cases b <;> rfl)

theorem seByte (x : RegIdx) (kk : Byte) : Statement (.seByte x kk) :=
  of_row 4 (by decide) (and_formXKK ..) (by dsimp only [decodeTable, decodeTableLow, decodeTableHigh, encode]; simp) (fun b => by cases b <;> rfl)

theorem sneByte (x : RegIdx) (kk : Byte) : Statement (.sneByte x kk) :=
  of_row 5 (by decide) (and_formXKK ..) (by dsimp only [decodeTable, decodeTableLow, decodeTableHigh, encode]; simp) (fun b => by cases b <;> rfl)

theorem seReg (x y : RegIdx) : Statement (.seReg x y) :=
  of_row 6 (by decide) (and_formXY ..) (by dsimp only [decodeTable, decodeTableLow, decodeTableHigh, encode]; simp) (fun b => by cases b <;> rfl)

theorem ldByte (x : RegIdx) (kk : Byte) : Statement (.ldByte x kk) :=
  of_row 7 (by decide) (and_formXKK ..) (by dsimp only [decodeTable, decodeTableLow, decodeTableHigh, encode]; simp) (fun b => by cases b <;> rfl)

theorem addByte (x : RegIdx) (kk : Byte) : Statement (.addByte x kk) :=
  of_row 8 (by decide) (and_formXKK ..) (by dsimp only [decodeTable, decodeTableLow, decodeTableHigh, encode]; simp) (fun b => by cases b <;> rfl)

theorem ldReg (x y : RegIdx) : Statement (.ldReg x y) :=
  of_row 9 (by decide) (and_formXY ..) (by dsimp only [decodeTable, decodeTableLow, decodeTableHigh, encode]; simp) (fun b => by cases b <;> rfl)

theorem orReg (x y : RegIdx) : Statement (.orReg x y) :=
  of_row 10 (by decide) (and_formXY ..) (by dsimp only [decodeTable, decodeTableLow, decodeTableHigh, encode]; simp) (fun b => by cases b <;> rfl)

theorem andReg (x y : RegIdx) : Statement (.andReg x y) :=
  of_row 11 (by decide) (and_formXY ..) (by dsimp only [decodeTable, decodeTableLow, decodeTableHigh, encode]; simp) (fun b => by cases b <;> rfl)

theorem xorReg (x y : RegIdx) : Statement (.xorReg x y) :=
  of_row 12 (by decide) (and_formXY ..) (by dsimp only [decodeTable, decodeTableLow, decodeTableHigh, encode]; simp) (fun b => by cases b <;> rfl)

theorem addReg (x y : RegIdx) : Statement (.addReg x y) :=
  of_row 13 (by decide) (and_formXY ..) (by dsimp only [decodeTable, decodeTableLow, decodeTableHigh, encode]; simp) (fun b => by cases b <;> rfl)

theorem subReg (x y : RegIdx) : Statement (.subReg x y) :=
  of_row 14 (by decide) (and_formXY ..) (by dsimp only [decodeTable, decodeTableLow, decodeTableHigh, encode]; simp) (fun b => by cases b <;> rfl)

theorem shr (x y : RegIdx) : Statement (.shr x y) :=
  of_row 15 (by decide) (and_formXY ..) (by dsimp only [decodeTable, decodeTableLow, decodeTableHigh, encode]; simp) (fun b => by cases b <;> rfl)

theorem subnReg (x y : RegIdx) : Statement (.subnReg x y) :=
  of_row 16 (by decide) (and_formXY ..) (by dsimp only [decodeTable, decodeTableLow, decodeTableHigh, encode]; simp) (fun b => by cases b <;> rfl)

theorem shl (x y : RegIdx) : Statement (.shl x y) :=
  of_row 17 (by decide) (and_formXY ..) (by dsimp only [decodeTable, decodeTableLow, decodeTableHigh, encode]; simp) (fun b => by cases b <;> rfl)

theorem sneReg (x y : RegIdx) : Statement (.sneReg x y) :=
  of_row 18 (by decide) (and_formXY ..) (by dsimp only [decodeTable, decodeTableLow, decodeTableHigh, encode]; simp) (fun b => by cases b <;> rfl)

theorem ldI (nnn : Addr) : Statement (.ldI nnn) :=
  of_row 19 (by decide) (and_formNNN ..) (by dsimp only [decodeTable, decodeTableLow, decodeTableHigh, encode]; simp) (fun b => by cases b <;> rfl)

theorem jpV0 (nnn : Addr) : Statement (.jpV0 nnn) :=
  of_row 20 (by decide) (and_formNNN ..) (by dsimp only [decodeTable, decodeTableLow, decodeTableHigh, encode]; simp) (fun b => by cases b <;> rfl)

theorem rnd (x : RegIdx) (kk : Byte) : Statement (.rnd x kk) :=
  of_row 21 (by decide) (and_formXKK ..) (by dsimp only [decodeTable, decodeTableLow, decodeTableHigh, encode]; simp) (fun b => by cases b <;> rfl)

theorem drw (x y : RegIdx) (n : Fin 16) : Statement (.drw x y n) :=
  of_row 22 (by decide) (and_formXYN ..) (by dsimp only [decodeTable, decodeTableLow, decodeTableHigh, encode]; simp) (fun b => by cases b <;> rfl)

theorem skp (x : RegIdx) : Statement (.skp x) :=
  of_row 23 (by decide) (and_formX ..) (by dsimp only [decodeTable, decodeTableLow, decodeTableHigh, encode]; simp) (fun b => by cases b <;> rfl)

theorem sknp (x : RegIdx) : Statement (.sknp x) :=
  of_row 24 (by decide) (and_formX ..) (by dsimp only [decodeTable, decodeTableLow, decodeTableHigh, encode]; simp) (fun b => by cases b <;> rfl)

theorem ldVxDt (x : RegIdx) : Statement (.ldVxDt x) :=
  of_row 25 (by decide) (and_formX ..) (by dsimp only [decodeTable, decodeTableLow, decodeTableHigh, encode]; simp) (fun b => by cases b <;> rfl)

theorem ldVxK (x : RegIdx) : Statement (.ldVxK x) :=
  of_row 26 (by decide) (and_formX ..) (by dsimp only [decodeTable, decodeTableLow, decodeTableHigh, encode]; simp) (fun b => by cases b <;> rfl)

theorem ldDtVx (x : RegIdx) : Statement (.ldDtVx x) :=
  of_row 27 (by decide) (and_formX ..) (by dsimp only [decodeTable, decodeTableLow, decodeTableHigh, encode]; simp) (fun b => by cases b <;> rfl)

theorem ldStVx (x : RegIdx) : Statement (.ldStVx x) :=
  of_row 28 (by decide) (and_formX ..) (by dsimp only [decodeTable, decodeTableLow, decodeTableHigh, encode]; simp) (fun b => by cases b <;> rfl)

theorem addI (x : RegIdx) : Statement (.addI x) :=
  of_row 29 (by decide) (and_formX ..) (by dsimp only [decodeTable, decodeTableLow, decodeTableHigh, encode]; simp) (fun b => by cases b <;> rfl)

theorem ldF (x : RegIdx) : Statement (.ldF x) :=
  of_row 30 (by decide) (and_formX ..) (by dsimp only [decodeTable, decodeTableLow, decodeTableHigh, encode]; simp) (fun b => by cases b <;> rfl)

theorem ldB (x : RegIdx) : Statement (.ldB x) :=
  of_row 31 (by decide) (and_formX ..) (by dsimp only [decodeTable, decodeTableLow, decodeTableHigh, encode]; simp) (fun b => by cases b <;> rfl)

theorem ldMemVx (x : RegIdx) : Statement (.ldMemVx x) :=
  of_row 32 (by decide) (and_formX ..) (by dsimp only [decodeTable, decodeTableLow, decodeTableHigh, encode]; simp) (fun b => by cases b <;> rfl)

theorem ldVxMem (x : RegIdx) : Statement (.ldVxMem x) :=
  of_row 33 (by decide) (and_formX ..) (by dsimp only [decodeTable, decodeTableLow, decodeTableHigh, encode]; simp) (fun b => by cases b <;> rfl)

end Sys2Proof.Laws.InItsRow
end

