-- ==== Sys2Proof/Laws/Step.lean ====
section
/-! SUPPORT. All that a step can do, said once. -/

namespace Sys2Proof.Machine

/-- The fetch fails. -/
theorem step_of_fetch_error {s : State} {a : Nat} (h : s.fetchWord = .error a) : step s = .next (s.failFetch a) := by
  simp [step, h]

/-- The fetched word is Unknown. -/
theorem step_of_unknown {s : State} {w : Word} {e : DecodeError} (h : s.fetchWord = .ok w)
    (hd : decode s.params.rndSupported w = .error e) :
    step s = .next ((s.beginStep w).raiseHere .unknownOpcode .empty) := by
  simp [step, h, hd]

/-- The fetched word decodes. -/
theorem step_of_decoded {s : State} {w : Word} {i : Instr} (h : s.fetchWord = .ok w)
    (hd : decode s.params.rndSupported w = .ok i) : step s = exec i (s.beginStep w) := by
  simp [step, h, hd]

/-- Every step is one of these three. -/
theorem step_cases (s : State) :
    (∃ a, s.fetchWord = .error a ∧ step s = .next (s.failFetch a)) ∨
    (∃ w e, s.fetchWord = .ok w ∧ decode s.params.rndSupported w = .error e ∧
      step s = .next ((s.beginStep w).raiseHere .unknownOpcode .empty)) ∨
    (∃ w i, s.fetchWord = .ok w ∧ decode s.params.rndSupported w = .ok i ∧ step s = exec i (s.beginStep w)) := by
  cases hf : s.fetchWord with
  | error a => exact .inl ⟨a, rfl, step_of_fetch_error hf⟩
  | ok w =>
    cases hd : decode s.params.rndSupported w with
    | error e => exact .inr (.inl ⟨w, e, rfl, hd, step_of_unknown hf hd⟩)
    | ok i => exact .inr (.inr ⟨w, i, rfl, hd, step_of_decoded hf hd⟩)

end Sys2Proof.Machine
end

