-- ==== Sys2Proof/Tests/Slice0.lean ====
section
/-! SUPPORT. Small tests of the model, each a named theorem. Their expected results are the spec's own: the encodings of
30_encoding.md R52 and the vectors V-… of 95_test_vectors.md. After them, for every statement with hypotheses, concrete
data that meet them, at the boundaries of their ranges. -/

namespace Sys2Proof.Tests

open Sys2Proof Sys2Proof.Machine

/-- What f sees of the state one step leaves, with the word w placed at PC; none if there were no next state. -/
def seen {α : Type} (w : Word) (s : State) (f : State → α) : Option α :=
  match step (s.placeAtPc w) with
  | .next t => some (f t)
  | .fault _ => none
  | .refused _ => none

/-- What f sees of the state an instruction leaves. -/
def left {α : Type} (i : Instr) (s : State) (f : State → α) : Option α :=
  match exec i s with
  | .next t => some (f t)
  | .fault _ => none
  | .refused _ => none

/-- The reset state with other values in two registers. -/
def regs2 (x : RegIdx) (a : Byte) (y : RegIdx) (b : Byte) : State := (State.reset.setReg x a).setReg y b

/-- The reset state with another I and another VF. -/
def indexed (i : Word) (f : Byte) : State := (State.reset.setI i).setReg 15 f

/-- The reset state with n entries on its stack. -/
def stacked (n : Fin 17) (entry : Word) : State := { State.reset with sp := n, stack := Vector.replicate 16 entry }

/-- The state with the listed keys pressed. -/
def pressing (ks : List (Fin 16)) (s : State) : State := ks.foldl (fun u k => setKey k true u) s

/-- The state with bytes stored at an address. -/
def holding (a : Nat) (bytes : List Byte) (s : State) : State := { s with mem := s.mem.storeBytes a bytes }

/-- The state with the listed pixels (row, col) set. -/
def lit (ps : List (Fin 32 × Fin 64)) (s : State) : State :=
  { s with disp := ps.foldl (fun d p => d.setPixel p.1 p.2 true) s.disp }

/-- The record of an error the instruction at 0x200 raises. -/
def record (k : ErrorKind) (w : Word) (d : Detail) : StepResult :=
  .err { kind := k, pc := 0x200, opcode := some w, detail := d }

/-! ### Well-formedness: the one check there is, and an ill-formed term it refuses -/

theorem test_wf_refuses_rnd_without_support : (Instr.rnd 3 0x0F).wf false = false := by decide
theorem test_wf_admits_rnd_with_support : (Instr.rnd 3 0x0F).wf true = true := by decide

/-! ### Decoding: for every constructor a word written out bit by bit from R52 -/

theorem test_decode_control :
    decode false 0b0000000011100000 = .ok .cls ∧
    decode false 0b0000000011101110 = .ok .ret ∧
    decode false 0b0001001000110100 = .ok (.jpAddr 0x234) ∧
    decode false 0b0010001000001100 = .ok (.callAddr 0x20C) ∧
    decode false 0b0011001101000010 = .ok (.seByte 3 0x42) ∧
    decode false 0b0100001101000011 = .ok (.sneByte 3 0x43) ∧
    decode false 0b0101000100100000 = .ok (.seReg 1 2) ∧
    decode false 0b1001000100100000 = .ok (.sneReg 1 2) ∧
    decode false 0b1011010111111111 = .ok (.jpV0 0x5FF) := by decide

theorem test_decode_alu :
    decode false 0b0110101000101011 = .ok (.ldByte 10 0x2B) ∧
    decode false 0b0111001100010000 = .ok (.addByte 3 0x10) ∧
    decode false 0b1000000100100000 = .ok (.ldReg 1 2) ∧
    decode false 0b1000000100100001 = .ok (.orReg 1 2) ∧
    decode false 0b1000000100100010 = .ok (.andReg 1 2) ∧
    decode false 0b1000000100100011 = .ok (.xorReg 1 2) ∧
    decode false 0b1000000100100100 = .ok (.addReg 1 2) ∧
    decode false 0b1000000100100101 = .ok (.subReg 1 2) ∧
    decode false 0b1000010100100110 = .ok (.shr 5 2) ∧
    decode false 0b1000000100100111 = .ok (.subnReg 1 2) ∧
    decode false 0b1000010100101110 = .ok (.shl 5 2) ∧
    decode true 0b1100001100001111 = .ok (.rnd 3 0x0F) := by decide

theorem test_decode_index_and_draw :
    decode false 0b1010001100000000 = .ok (.ldI 0x300) ∧
    decode false 0b1111001000011110 = .ok (.addI 2) ∧
    decode false 0b1111101000110011 = .ok (.ldB 10) ∧
    decode false 0b1111001001010101 = .ok (.ldMemVx 2) ∧
    decode false 0b1111001001100101 = .ok (.ldVxMem 2) ∧
    decode false 0b1111101000101001 = .ok (.ldF 10) ∧
    decode false 0b1101000000010101 = .ok (.drw 0 1 5) := by decide

theorem test_decode_key_and_timer :
    decode false 0b1110010010011110 = .ok (.skp 4) ∧
    decode false 0b1110010010100001 = .ok (.sknp 4) ∧
    decode false 0b1111000000001010 = .ok (.ldVxK 0) ∧
    decode false 0b1111001100000111 = .ok (.ldVxDt 3) ∧
    decode false 0b1111000000010101 = .ok (.ldDtVx 0) ∧
    decode false 0b1111000100011000 = .ok (.ldStVx 1) := by decide

/-- V-DEC-1 to V-DEC-6. -/
theorem test_decode_unknown_low :
    decode false 0x0000 = .error (.unknown 0x0000) ∧ decode false 0x0123 = .error (.unknown 0x0123) ∧
    decode false 0x00E1 = .error (.unknown 0x00E1) ∧ decode false 0x00EF = .error (.unknown 0x00EF) ∧
    decode false 0x5121 = .error (.unknown 0x5121) ∧ decode false 0x912F = .error (.unknown 0x912F) := by decide

/-- V-DEC-7 to V-DEC-12. -/
theorem test_decode_unknown_high :
    decode false 0x8128 = .error (.unknown 0x8128) ∧ decode false 0x812F = .error (.unknown 0x812F) ∧
    decode false 0xC30F = .error (.unknown 0xC30F) ∧ decode false 0xE19F = .error (.unknown 0xE19F) ∧
    decode false 0xF100 = .error (.unknown 0xF100) ∧ decode false 0xF1FF = .error (.unknown 0xF1FF) := by decide

theorem test_decode_bytes_big_endian :
    decodeBytes false [0x81, 0x24, 0x7F] = .ok (.addReg 1 2, [0x7F]) ∧ decodeBytes false [0x81] = .error .truncated := by
  decide

theorem test_decode_table_word :
    decodeTableWord 16 0xC30F = some (.rnd 3 0x0F) ∧ decodeTableWord 16 0xF265 = some (.ldVxMem 2) := by decide

/-- Two different rows share no word: where both masks look, their patterns differ. -/
theorem test_decode_rows_disjoint :
    decodeTable.Pairwise (fun r q => r.pattern &&& (r.mask &&& q.mask) ≠ q.pattern &&& (r.mask &&& q.mask)) := by decide

/-! ### The fetch -/

/-- V-DEC-13: the last legal fetch. -/
theorem test_fetch_last : seen 0x1234 (State.reset.setPc 0xFFE) State.pc = some 0x234 := by decide

/-- V-DEC-14: a fetch that straddles the end. -/
theorem test_fetch_straddles : seen 0x1234 (State.reset.setPc 0xFFF) (fun t => (t.pc, t.result)) =
    some (0xFFF, .err { kind := .outOfBoundsAccess, pc := 0xFFF, opcode := none, detail := .address 0x1000 }) := by decide

/-- V-DEC-16: an odd PC is legal. -/
theorem test_fetch_odd : seen 0x6A2B (State.reset.setPc 0x201) (fun t => (t.pc, t.reg 10)) = some (0x203, 0x2B) := by decide

/-- V-DEC-1. -/
theorem test_step_unknown : seen 0x0000 State.reset (fun t => (t.pc, t.result, t.faultLatch)) =
    some (0x202, record .unknownOpcode 0x0000 .empty, true) := by decide

/-- The word is placed where the step fetches it. -/
theorem test_with_fetch_word :
    (match step (State.reset.withFetchWord 16 0x1234) with | .next t => some t.pc | _ => none) = some 0x234 := by decide

/-! ### Control flow -/

/-- V-CF-1 -/
theorem test_cls : seen 0x00E0 (lit [(10, 20), (31, 63)] State.reset)
    (fun t => (t.pc, t.disp.pixel 10 20, t.disp.pixel 31 63)) = some (0x202, false, false) := by decide

/-- V-CF-4 -/
theorem test_ret : seen 0x00EE (stacked 16 0x3A2) (fun t => (t.pc, t.sp)) = some (0x3A2, 15) := by decide

/-- V-CF-2 -/
theorem test_ret_empty : seen 0x00EE State.reset (fun t => (t.pc, t.sp, t.result)) =
    some (0x202, 0, record .stackUnderflow 0x00EE .empty) := by decide

/-- V-CF-5 -/
theorem test_jpAddr : seen 0x1234 State.reset State.pc = some 0x234 := by decide

/-- V-CF-7 -/
theorem test_callAddr : seen 0x220C (State.reset.setPc 0x204) (fun t => (t.pc, t.sp, t.stack[0])) =
    some (0x20C, 1, 0x206) := by decide

/-- V-CF-9 -/
theorem test_callAddr_full : seen 0x2400 (stacked 16 0x111) (fun t => (t.pc, t.sp, t.stack[15], t.result)) =
    some (0x202, 16, 0x111, record .stackOverflow 0x2400 .empty) := by decide

/-- V-CF-11, V-CF-12 -/
theorem test_seByte : seen 0x3342 (State.reset.setReg 3 0x42) State.pc = some 0x204 ∧
    seen 0x3343 (State.reset.setReg 3 0x42) State.pc = some 0x202 := by decide

/-- V-CF-13 -/
theorem test_seByte_over_end : seen 0x3F00 (State.reset.setPc 0xFFE) State.pc = some 0x1002 := by decide

/-- V-CF-14, V-CF-15 -/
theorem test_sneByte : seen 0x4343 (State.reset.setReg 3 0x42) State.pc = some 0x204 ∧
    seen 0x4342 (State.reset.setReg 3 0x42) State.pc = some 0x202 := by decide

/-- V-CF-16, V-CF-17 -/
theorem test_seReg : seen 0x5120 (regs2 1 0xDD 2 0xDD) State.pc = some 0x204 ∧
    seen 0x5120 (regs2 1 0xDD 2 0xDE) State.pc = some 0x202 := by decide

/-- V-CF-19, V-CF-20 -/
theorem test_sneReg : seen 0x9120 (regs2 1 0xDD 2 0xDE) State.pc = some 0x204 ∧
    seen 0x9770 (State.reset.setReg 7 0x99) State.pc = some 0x202 := by decide

/-- V-CF-22, V-CF-23 -/
theorem test_jpV0 : seen 0xB5FF (regs2 0 0 5 0x77) State.pc = some 0x5FF ∧
    seen 0xBFFE (State.reset.setReg 0 1) State.pc = some 0xFFF := by decide

/-- V-CF-24 -/
theorem test_jpV0_rejected : seen 0xBFFF (State.reset.setReg 0 1) (fun t => (t.pc, t.result)) =
    some (0x202, record .outOfBoundsAccess 0xBFFF (.address 0x1000)) := by decide

/-! ### Arithmetic and logic -/

/-- V-ALU-1 -/
theorem test_ldByte : seen 0x6A2B State.reset (fun t => (t.pc, t.reg 10)) = some (0x202, 0x2B) := by decide

/-- V-ALU-3: VF untouched. -/
theorem test_addByte : seen 0x7310 (regs2 3 0xFF 15 0x5A) (fun t => (t.reg 3, t.reg 15)) = some (0x0F, 0x5A) := by decide

/-- V-ALU-5: VF as the destination. -/
theorem test_addByte_vf : seen 0x7F01 (State.reset.setReg 15 0xFF) (fun t => t.reg 15) = some 0x00 := by decide

/-- V-ALU-6 -/
theorem test_ldReg : seen 0x8120 (State.reset.setReg 2 0x55) (fun t => t.reg 1) = some 0x55 := by decide

/-- V-ALU-7: VF not cleared. -/
theorem test_orReg : seen 0x8121 ((regs2 1 0xF0 2 0x0F).setReg 15 0x33) (fun t => (t.reg 1, t.reg 15)) =
    some (0xFF, 0x33) := by decide

/-- V-ALU-8 -/
theorem test_andReg : seen 0x8122 (regs2 1 0xF0 2 0x3C) (fun t => t.reg 1) = some 0x30 := by decide

/-- V-ALU-9 -/
theorem test_xorReg : seen 0x8123 (regs2 1 0xF0 2 0x3C) (fun t => t.reg 1) = some 0xCC := by decide

/-- V-ALU-13: no carry clears VF. V-ALU-12: a carry. -/
theorem test_addReg : seen 0x8124 ((regs2 1 0x80 2 0x7F).setReg 15 1) (fun t => (t.reg 1, t.reg 15)) = some (0xFF, 0) ∧
    seen 0x8124 (regs2 1 0xFF 2 0x01) (fun t => (t.reg 1, t.reg 15)) = some (0x00, 1) := by decide

/-- V-ALU-14: x = 15, the flag wins. -/
theorem test_addReg_vf : seen 0x8F14 (regs2 15 0x10 1 0xF0) (fun t => t.reg 15) = some 1 := by decide

/-- V-ALU-17, V-ALU-18 -/
theorem test_subReg : seen 0x8125 (regs2 1 0x2C 2 0x64) (fun t => (t.reg 1, t.reg 15)) = some (0xC8, 0) ∧
    seen 0x8125 (regs2 1 0x64 2 0x64) (fun t => (t.reg 1, t.reg 15)) = some (0x00, 1) := by decide

/-- V-ALU-20 -/
theorem test_subReg_vf : seen 0x8F15 (regs2 15 0x05 1 0x03) (fun t => t.reg 15) = some 1 := by decide

/-- V-ALU-22: y is not looked at. -/
theorem test_shr : seen 0x8526 (regs2 5 0xFE 2 0x01) (fun t => (t.reg 5, t.reg 15)) = some (0x7F, 0) := by decide

/-- V-ALU-23 -/
theorem test_shr_vf : seen 0x8FF6 (State.reset.setReg 15 3) (fun t => t.reg 15) = some 1 := by decide

/-- V-ALU-24, V-ALU-25 -/
theorem test_subnReg : seen 0x8127 (regs2 1 0x10 2 0x30) (fun t => (t.reg 1, t.reg 15)) = some (0x20, 1) ∧
    seen 0x8127 (regs2 1 0x30 2 0x10) (fun t => (t.reg 1, t.reg 15)) = some (0xE0, 0) := by decide

/-- V-ALU-28 -/
theorem test_shl : seen 0x850E (regs2 5 0x41 15 1) (fun t => (t.reg 5, t.reg 15)) = some (0x82, 0) := by decide

/-- V-ALU-29 -/
theorem test_shl_vf : seen 0x8FFE (State.reset.setReg 15 0x80) (fun t => t.reg 15) = some 1 := by decide

/-- V-ALU-31: a mask of 0 gives 0, whatever the free byte. -/
theorem test_rnd_masked : left (.rnd 3 0x00) (State.reset.setReg 3 0x11) (fun t => t.reg 3) = some 0 := by
  simp [left, exec, execRnd, State.reg, State.setReg]

/-- V-DEC-9: without RND_SUPPORTED, group C is Unknown. -/
theorem test_rnd_unsupported : seen 0xC30F State.reset (fun t => (t.pc, t.result)) =
    some (0x202, record .unknownOpcode 0xC30F .empty) := by decide

/-! ### Memory and index -/

/-- V-MEM-1 -/
theorem test_ldI : seen 0xA300 State.reset (fun t => (t.pc, t.i)) = some (0x202, 0x300) := by decide

/-- V-MEM-5: the wrap, and V-MEM-4: I may exceed 0xFFF. -/
theorem test_addI : seen 0xF01E ((State.reset.setI 0xFFFF).setReg 0 1) State.i = some 0 ∧
    seen 0xF01E ((State.reset.setI 0xFFF).setReg 0 1) State.i = some 0x1000 := by decide

/-- V-MEM-6: VF is the addend. -/
theorem test_addI_vf : seen 0xFF1E (indexed 0x100 1) (fun t => (t.i, t.reg 15)) = some (0x101, 1) := by decide

/-- V-MEM-12: the last legal I. -/
theorem test_ldB : seen 0xF033 ((State.reset.setI 0xFFD).setReg 0 0xFF)
    (fun t => (t.readByte 0xFFD, t.readByte 0xFFE, t.readByte 0xFFF, t.i)) = some (2, 5, 5, 0xFFD) := by decide

/-- V-MEM-14: the reported address is I itself. -/
theorem test_ldB_rejected : seen 0xF033 (State.reset.setI 0x2000) (fun t => (t.pc, t.result)) =
    some (0x202, record .outOfBoundsAccess 0xF033 (.address 0x2000)) := by decide

/-- V-MEM-15 -/
theorem test_ldMemVx : seen 0xF255 (((regs2 0 1 1 2).setReg 2 3).setI 0x300)
    (fun t => (t.readByte 0x300, t.readByte 0x301, t.readByte 0x302, t.readByte 0x303, t.i)) =
    some (1, 2, 3, 0, 0x303) := by decide

/-- V-MEM-18 -/
theorem test_ldMemVx_rejected : seen 0xFF55 (State.reset.setI 0xFF1) (fun t => (t.i, t.result)) =
    some (0xFF1, record .outOfBoundsAccess 0xFF55 (.address 0x1000)) := by decide

/-- V-MEM-19 -/
theorem test_ldVxMem : seen 0xF265 (holding 0x300 [2, 5, 4] (State.reset.setI 0x300))
    (fun t => (t.reg 0, t.reg 1, t.reg 2, t.reg 3, t.i)) = some (2, 5, 4, 0, 0x303) := by decide

/-- V-MEM-20: VF loaded as a register. -/
theorem test_ldVxMem_vf : seen 0xFF65 (holding 0x40F [0x77] (indexed 0x400 1)) (fun t => (t.reg 15, t.i)) =
    some (0x77, 0x410) := by decide

/-- V-MEM-22, V-MEM-24: no mask. -/
theorem test_ldF : seen 0xFA29 (State.reset.setReg 10 0x0A) State.i = some 0x32 ∧
    seen 0xF029 (State.reset.setReg 0 0xFF) State.i = some 0x4FB := by decide

/-! ### The draw -/

/-- V-DRW-2: the wrap on both axes, bit by bit. -/
theorem test_drw_wraps : seen 0xD012 (holding 0x300 [0xFF, 0x81] ((regs2 0 0x3E 1 0x1F).setI 0x300))
    (fun t => ((t.disp.pixel 31 62, t.disp.pixel 31 63, t.disp.pixel 31 0, t.disp.pixel 31 5, t.disp.pixel 31 6),
      (t.disp.pixel 0 62, t.disp.pixel 0 63, t.disp.pixel 0 5, t.disp.pixel 0 4), t.reg 15)) =
    some ((true, true, true, true, false), (true, false, true, false), 0) := by decide

/-- V-DRW-3: a collision. -/
theorem test_drw_collides : seen 0xD011 (lit [(20, 12)] (holding 0x300 [0xAA] ((regs2 0 0x0A 1 0x14).setI 0x300)))
    (fun t => (t.disp.pixel 20 10, t.disp.pixel 20 11, t.disp.pixel 20 12, t.disp.pixel 20 14, t.reg 15)) =
    some (true, false, false, true, 1) := by decide

/-! ### Keyboard and timers -/

/-- V-KEY-1, V-KEY-2 -/
theorem test_skp : seen 0xE49E (pressing [7] ((State.reset.setReg 4 7).setPc 0x300)) State.pc = some 0x304 ∧
    seen 0xE49E ((State.reset.setReg 4 7).setPc 0x300) State.pc = some 0x302 := by decide

/-- V-KEY-5 -/
theorem test_skp_rejected : seen 0xE49E (State.reset.setReg 4 0x10) (fun t => (t.pc, t.result)) =
    some (0x202, record .outOfBoundsAccess 0xE49E (.keyIndex 0x10)) := by decide

/-- V-KEY-3, V-KEY-4 -/
theorem test_sknp : seen 0xE4A1 ((State.reset.setReg 4 7).setPc 0x300) State.pc = some 0x304 ∧
    seen 0xE4A1 (pressing [7] ((State.reset.setReg 4 7).setPc 0x300)) State.pc = some 0x302 := by decide

/-- V-KEY-6 -/
theorem test_sknp_rejected : seen 0xE4A1 (State.reset.setReg 4 0xFF) (fun t => (t.pc, t.result)) =
    some (0x202, record .outOfBoundsAccess 0xE4A1 (.keyIndex 0xFF)) := by decide

/-- V-KEY-8: the lowest index wins. -/
theorem test_ldVxK : seen 0xF00A (pressing [9, 3] State.reset) (fun t => (t.pc, t.reg 0)) = some (0x202, 3) := by decide

/-- V-KEY-7: no key, PC rolled back. -/
theorem test_ldVxK_waits : seen 0xF00A State.reset (fun t => (t.pc, t.reg 0, t.result)) =
    some (0x200, 0, .ok 0xF00A) := by decide

/-- V-KEY-10 -/
theorem test_ldVxDt : seen 0xF307 { State.reset with dt := 60 } (fun t => (t.reg 3, t.dt)) = some (0x3C, 60) := by decide

/-- V-KEY-11 -/
theorem test_ldDtVx : seen 0xF015 (State.reset.setReg 0 7) (fun t => (t.dt, t.st)) = some (7, 0) := by decide

/-- V-KEY-12, V-KEY-13 -/
theorem test_ldStVx : seen 0xF118 (State.reset.setReg 1 2) (fun t => (t.st, t.dt)) = some (2, 0) ∧
    seen 0xF118 { State.reset with st := 9 } State.st = some 0 := by decide

/-! ### The host's calls -/

/-- V-TCK-1, V-TCK-3, V-TCK-4, one tick after another. -/
theorem test_ticks :
    let s : State := { State.reset with dt := 5, st := 1 }
    let t := tick 16 s
    let u := tick 1 t
    let v := tick 0 u
    (t.acc, t.dt, t.st) = (16, 5, 1) ∧ (u.acc, u.dt, u.st) = (17, 4, 0) ∧ (v.acc, v.dt, v.st) = (17, 3, 0) := by decide

/-- V-RST-1, V-RST-3 -/
theorem test_construct :
    construct Config.defaultFont Config.Params.default (List.replicate 3585 0) = .error .romTooLarge ∧
    seen 0x0000 State.reset (fun t => (t.pc, t.result)) = some (0x202, record .unknownOpcode 0x0000 .empty) := by
  refine ⟨?_, by decide⟩
  unfold construct
  rw [List.length_replicate]
  rfl

/-- 20_memory.md R32: glyphs 0 and F of the default FONT, and the zero after it. -/
theorem test_font : (List.range 5).map State.reset.readByte = [0xF0, 0x90, 0x90, 0x90, 0xF0] ∧
    [75, 76, 77, 78, 79, 80].map State.reset.readByte = [0xF0, 0x80, 0xF0, 0x80, 0x80, 0] := by decide

/-! ### Witnesses: concrete data that meet the hypotheses of each statement that has any -/

theorem witness_DecodeOfEncodeIsIdentity :
    (Instr.rnd 15 0xFF).wf true = true ∧ (Instr.rnd 15 0xFF).wf false = false ∧ (Instr.drw 15 15 15).wf false = true := by
  decide

theorem witness_EncodeOfDecodeIsIdentity : decode false 0x8FF4 = .ok (.addReg 15 15) := by decide

/-- One word of each clause, and one of none. -/
theorem witness_UnknownWordsAreExactlyThese :
    ((0x00EF : Word).toNat / 4096 = 0 ∧ (0x00EF : Word).toNat ≠ 0x00E0 ∧ (0x00EF : Word).toNat ≠ 0x00EE) ∧
    ((0x9121 : Word).toNat / 4096 = 9 ∧ (0x9121 : Word).toNat % 16 ≠ 0) ∧
    ((0x8128 : Word).toNat / 4096 = 8 ∧ (0x8128 : Word).toNat % 16 = 8) ∧
    ((0xC000 : Word).toNat / 4096 = 0xC) ∧
    ((0xE19F : Word).toNat / 4096 = 0xE ∧ (0xE19F : Word).toNat % 256 ∉ [0x9E, 0xA1]) ∧
    ((0xF066 : Word).toNat / 4096 = 0xF ∧
      (0xF066 : Word).toNat % 256 ∉ [0x07, 0x0A, 0x15, 0x18, 0x1E, 0x29, 0x33, 0x55, 0x65]) ∧
    (0x1FFF : Word).toNat / 4096 = 1 := by decide

theorem witness_AtMostOneDecodeRowMatches :
    ∃ k : Fin decodeTable.length, k.val = 33 ∧ decodeTable[k.val].matchesWord 0xFF65 = true :=
  ⟨⟨33, by decide⟩, rfl, by decide⟩

/-- The last PC a fetch succeeds at, with a word that decodes and with one that does not. -/
theorem witness_StepRunsDecodedInstruction :
    let s := (State.reset.setPc 0xFFE).placeAtPc 0x1234
    let u := (State.reset.setPc 0xFFE).placeAtPc 0x0000
    s.pc.toNat + 1 ≤ 0xFFF ∧
    decode s.params.rndSupported (s.readByte s.pc.toNat ++ s.readByte (s.pc.toNat + 1)) = .ok (.jpAddr 0x234) ∧
    u.pc.toNat + 1 ≤ 0xFFF ∧
    decode u.params.rndSupported (u.readByte u.pc.toNat ++ u.readByte (u.pc.toNat + 1)) = .error (.unknown 0x0000) := by
  decide

/-- The first PC no fetch succeeds at, and the first with no byte at all. -/
theorem witness_FetchBeyondMemoryRaises :
    (State.reset.setPc 0xFFF).pc.toNat + 1 > 0xFFF ∧ (State.reset.setPc 0x1000).pc.toNat + 1 > 0xFFF := by decide

/-- A failed fetch, and a step that fails after its fetch. -/
theorem witness_FailedStepChangesOnlyPc :
    (∃ t, step (State.reset.setPc 0xFFF) = .next t ∧ t.result.isErr = true) ∧
    (∃ t, step State.reset = .next t ∧ t.result.isErr = true) := ⟨⟨_, rfl, rfl⟩, ⟨_, rfl, rfl⟩⟩

/-- A step that fails, one that does not, and another host call. -/
theorem witness_FaultLatchIsSticky :
    (∃ t, step State.reset = .next t ∧ t.result.isErr = true) ∧
    (∃ t, step (State.reset.placeAtPc 0x1200) = .next t ∧ t.result.isErr = false) ∧
    (HostCall.tick 17 ≠ .step ∧ ∃ t, transact (.tick 17) State.reset = .next t) :=
  ⟨⟨_, rfl, rfl⟩, ⟨_, rfl, rfl⟩, by decide, ⟨_, rfl⟩⟩

/-- RET at both sides of its bound, DRW at both sides of its. -/
theorem witness_InstructionRaisesExactlyWhen :
    errorOf .ret (stacked 0 0) = some (.stackUnderflow, .empty) ∧ errorOf .ret (stacked 1 0x206) = none ∧
    errorOf (.drw 0 0 1) (indexed 0xFFF 0) = none ∧
    errorOf (.drw 0 0 1) (indexed 0x1000 0) = some (.outOfBoundsAccess, .address 0x1000) := by decide

theorem witness_RegistersWrittenByEachInstruction :
    (isDestination (.ldVxMem 2) 3 = false ∧ (isFlagWriter (.ldVxMem 2) && (3 : RegIdx) == 15) = false) ∧
    (isDestination (.addReg 1 2) 14 = false ∧ (isFlagWriter (.addReg 1 2) && (14 : RegIdx) == 15) = false) ∧
    (∀ k, State.reset.key k = false) := by decide

theorem witness_FlagRegisterWrittenOnlyAsFlagOrDestination :
    (isFlagWriter (.orReg 1 2) = false ∧ isDestination (.orReg 1 2) 15 = false) ∧
    (isFlagWriter (.drw 0 1 15) = true ∧ errorOf (.drw 0 1 15) State.reset = none) := by decide

/-- A step that changes the display. -/
theorem witness_DisplayWrittenOnlyByClsAndDrw :
    ∃ t, transact .step ((lit [(31, 63)] State.reset).placeAtPc 0x00E0) = .next t ∧ t.disp.pixel 31 63 = false ∧
      (lit [(31, 63)] State.reset).disp.pixel 31 63 = true := ⟨_, rfl, by decide, by decide⟩

/-- The last I each store completes at, and the first it does not. -/
theorem witness_MemoryWrittenOnlyByStores :
    ¬ (State.reset.setI 0xFFD).i.toNat + 2 > 0xFFF ∧ (State.reset.setI 0xFFE).i.toNat + 2 > 0xFFF ∧
    ¬ (State.reset.setI 0xFF0).i.toNat + (15 : RegIdx).val > 0xFFF ∧
    (State.reset.setI 0xFF1).i.toNat + (15 : RegIdx).val > 0xFFF := by decide

theorem witness_StepLeavesKeysAccumulatorAndTimers :
    ∃ t, step State.reset = .next t ∧ t.result.isErr = true := ⟨_, rfl, rfl⟩

theorem witness_ConstructMeetsInvariant :
    Config.Params.default.wf ∧ ∃ s, construct Config.defaultFont Config.Params.default [0x12, 0x00] = .ok s :=
  ⟨by decide, _, rfl⟩

theorem witness_inv_reset : State.reset.Inv :=
  ⟨by decide, by decide, fun j hj => absurd hj (Nat.not_lt_zero j.val), by decide⟩

theorem witness_StepKeepsInvariant : State.reset.Inv ∧ ∃ t, step State.reset = .next t :=
  ⟨witness_inv_reset, _, rfl⟩

theorem witness_EverySessionKeepsInvariant :
    State.reset.Inv ∧ ∃ t, session [.setKey 7 true, .step, .tick 17, .readRegisters] State.reset = .next t :=
  ⟨witness_inv_reset, _, rfl⟩

theorem witness_RetPopsOrUnderflows :
    (stacked 1 0x206).sp.val = (0 : Fin 16).val + 1 ∧ (stacked 16 0x3A2).sp.val = (15 : Fin 16).val + 1 ∧
    State.reset.sp.val = 0 := by decide

theorem witness_CallPushesOrOverflows : (stacked 15 0x206).sp.val < 16 ∧ (stacked 16 0x206).sp.val = 16 := by decide

theorem witness_NestedCallsReturn :
    (stacked 14 0x206).sp.val + ([0x300, 0x400] : List Addr).length ≤ 16 ∧
    (stacked 14 0x206).sp.val + ([0x300, 0x400] : List Addr).length = 16 := by decide

/-- The last target accepted and the first rejected. -/
theorem witness_JumpWithOffset :
    (0xFFE : Addr).toNat + ((State.reset.setReg 0 1).reg 0).toNat ≤ 0xFFF ∧
    (0xFFF : Addr).toNat + ((State.reset.setReg 0 1).reg 0).toNat > 0xFFF := by decide

/-- The register numbers LoadsAndBitwise, AddLiteralWrapsWithoutFlag, AddSetsCarry, SubtractionsSetNoBorrow,
ShiftsKeepTheLostBit and TimerLoadsAndStores keep apart. -/
theorem witness_destinations_apart : (14 : RegIdx) ≠ 1 ∧ (14 : RegIdx) ≠ 15 ∧ (1 : RegIdx) ≠ 15 := by decide

theorem witness_RandomByteIsMasked : (0x0F : Byte).getLsbD 4 = false := by decide

theorem witness_DecimalDigitsAreStored :
    (State.reset.setI 0xFFD).mem.wf ∧ (State.reset.setI 0xFFD).i.toNat + 2 ≤ 0xFFF ∧
    (State.reset.setI 0xFFE).mem.wf ∧ (State.reset.setI 0xFFE).i.toNat + 2 > 0xFFF := by decide

theorem witness_BulkStoreWritesRegisters :
    (State.reset.setI 0xFF0).mem.wf ∧ (State.reset.setI 0xFF0).i.toNat + (15 : RegIdx).val ≤ 0xFFF ∧
    (State.reset.setI 0xFF1).mem.wf ∧ (State.reset.setI 0xFF1).i.toNat + (15 : RegIdx).val > 0xFFF := by decide

theorem witness_BulkLoadReadsRegisters :
    (State.reset.setI 0xFF0).i.toNat + (15 : RegIdx).val ≤ 0xFFF ∧ (0 : RegIdx) ≤ 15 ∧
    (State.reset.setI 0xFF1).i.toNat + (15 : RegIdx).val > 0xFFF := by decide

/-- The highest I the second load completes at; and, I put back, a state the first part speaks of. -/
theorem witness_BulkStoreThenLoad :
    let s := State.reset.setI 0xFE0
    let u := State.reset.setI 0xFE0
    s.mem.wf ∧ s.i.toNat + (15 : RegIdx).val ≤ 0xFFF ∧ s.i.toNat + 2 * (15 : RegIdx).val + 1 ≤ 0xFFF ∧
    left (.ldMemVx 15) s State.mem = some u.mem ∧ u.i = s.i := by decide

theorem witness_StoreIsSeenByFetch :
    let s := (regs2 0 0x12 1 0x0A).setI 0xFFE
    let u := { State.reset.setPc 0xFFE with mem := [(0xFFE, 0x12), (0xFFF, 0x0A)] }
    s.mem.wf ∧ s.i.toNat + (1 : RegIdx).val ≤ 0xFFF ∧ (1 : RegIdx).val = (0 : RegIdx).val + 1 ∧ (1 : RegIdx) ≤ 1 ∧
    left (.ldMemVx 1) s State.mem = some u.mem ∧ u.pc.toNat = s.i.toNat + (0 : RegIdx).val := by decide

/-- The last I a one-row sprite lies at, with and without a pixel under its one bit. -/
theorem witness_DrawXorsTheSprite :
    let s := holding 0xFFF [0x80] (State.reset.setI 0xFFF)
    0 < (1 : Fin 16).val ∧ s.i.toNat + (1 : Fin 16).val - 1 ≤ 0xFFF ∧
    ((lit [(0, 0)] s).disp.pixel 0 0 = true ∧ spriteBitAt (lit [(0, 0)] s) 0 1 1 0 0 = true) ∧
    (∀ row, ∀ col, s.disp.pixel row col = true → spriteBitAt s 0 1 1 row col = false) := by
  refine ⟨by decide, by decide, by decide, fun row col h => ?_⟩
  have hblank : ∀ r : Fin 32, ∀ c : Fin 64, State.reset.disp.pixel r c = false := fun r c => by
    simp [State.reset, Display.pixel]
  exact absurd h (by simp [holding, hblank])

theorem witness_DrawRaisesInOrder :
    (0 : Fin 16).val = 0 ∧ 0 < (2 : Fin 16).val ∧ (State.reset.setI 0xFFF).i.toNat + (2 : Fin 16).val - 1 > 0xFFF := by
  decide

/-- The second draw from the very state the first leaves, by registers the first does not write. -/
theorem witness_DrawingTwiceRestoresTheDisplay :
    let s := holding 0xFFF [0x80] ((regs2 0 0x4A 1 0x34).setI 0xFFF)
    0 < (1 : Fin 16).val ∧ s.i.toNat + (1 : Fin 16).val - 1 ≤ 0xFFF ∧
    ∃ t, exec (.drw 0 1 1) s = .next t ∧ t.mem = s.mem ∧ t.i = s.i ∧
      (t.reg 0).toNat % 64 = (s.reg 0).toNat % 64 ∧ (t.reg 1).toNat % 32 = (s.reg 1).toNat % 32 :=
  ⟨by decide, by decide, _, rfl, rfl, rfl, rfl, rfl⟩

/-- The last key code, and the first value that is none. -/
theorem witness_KeySkips :
    ((State.reset.setReg 4 0x0F).reg 4).toNat = (15 : Fin 16).val ∧ ((State.reset.setReg 4 0x10).reg 4).toNat > 15 := by
  decide

theorem witness_KeyWaitTakesLowestOrRollsBack :
    ((pressing [15] State.reset).key 15 = true ∧ ∀ j : Fin 16, j < 15 → (pressing [15] State.reset).key j = false) ∧
    (∀ k, State.reset.key k = false) := by decide

/-- ACC = 16 is not above 50/3, ACC = 17 is. -/
theorem witness_TickCountsDownAboveThreshold :
    (State.reset.acc + 17) * State.reset.params.tickDen > State.reset.params.tickNum ∧
    (State.reset.acc + 16) * State.reset.params.tickDen ≤ State.reset.params.tickNum ∧
    State.reset.params = Config.Params.default := by decide

theorem witness_TicksAfterCrossingAlwaysCount :
    ({ State.reset with acc := 17 } : State).acc * State.reset.params.tickDen > State.reset.params.tickNum := by decide

theorem witness_KeySetterAndReaders : (15 : Fin 16) ≠ 0 := by decide

theorem witness_ConstructLoadsFontAndRom :
    (List.replicate 3585 (0xAB : Byte)).length > 3584 ∧ (List.replicate 3584 (0xAB : Byte)).length ≤ 3584 ∧
    3583 < (List.replicate 3584 (0xAB : Byte)).length := by
  simp only [List.length_replicate]
  decide

/-- Two states that differ in the one entry above the top. -/
theorem witness_DeadStackEntriesAreUnobservable :
    let s := stacked 15 0x206
    let s' : State := { s with stack := s.stack.set 15 0x111 }
    s' = { s with stack := s'.stack } ∧ (∀ j : Fin 16, j.val < s.sp.val → s'.stack[j.val] = s.stack[j.val]) ∧
    s'.stack[15] ≠ s.stack[15] := ⟨rfl, by decide, by decide⟩

theorem witness_CanonicalMemoryIsUnique :
    Memory.wf [(0x200, 0x12)] ∧ Memory.wf (Memory.write (Memory.write [] 0x200 0x34) 0x200 0x12) ∧
    ∀ a, Memory.read [(0x200, 0x12)] a = Memory.read (Memory.write (Memory.write [] 0x200 0x34) 0x200 0x12) a :=
  ⟨by decide, by decide, fun _ => rfl⟩

end Sys2Proof.Tests
end

section
/-! PROOFS. Who writes VF, and what it then holds (spec/10_state.md R16, R17). -/

namespace Sys2Proof.Machine

/-! ### The flags as bytes and as numbers (42_alu.md R78, R87, R89) -/

theorem flagByte_eq_zero_or_one (f : Bool) : flagByte f = 0 ∨ flagByte f = 1 := by
  cases f
  · exact .inl rfl
  · exact .inr rfl

theorem flagByte_carry (a b : Byte) : flagByte (carry a b) = if a.toNat + b.toNat > 255 then 1 else 0 := by
  simp only [flagByte, carry, decide_eq_true_eq]

theorem flagByte_noBorrow (a b : Byte) : flagByte (noBorrow a b) = if a.toNat ≥ b.toNat then 1 else 0 := by
  simp only [flagByte, noBorrow, decide_eq_true_eq]

/-- A bit as a flag is the bit's value in the number. -/
theorem toNat_flagByte_getLsbD (a : Byte) (k : Nat) : (flagByte (a.getLsbD k)).toNat = a.toNat / 2 ^ k % 2 := by
  rw [BitVec.getLsbD, Nat.testBit_eq_decide_div_mod_eq]
  rcases Nat.mod_two_eq_zero_or_one (a.toNat / 2 ^ k) with h | h <;> simp [flagByte, h]

theorem toNat_flagByte_lowBit (a : Byte) : (flagByte (lowBit a)).toNat = a.toNat % 2 := by
  simpa [lowBit] using toNat_flagByte_getLsbD a 0

theorem toNat_flagByte_highBit (a : Byte) : (flagByte (highBit a)).toNat = a.toNat / 128 := by
  have hbit := toNat_flagByte_getLsbD a 7
  have hlt : a.toNat / 128 < 2 := Nat.div_lt_of_lt_mul a.isLt
  exact hbit.trans (Nat.mod_eq_of_lt hlt)

/-! ### What DRW and LD Vx, [I] leave in the registers (44_draw.md R97, 43_memory_index.md R95) -/

/-- A draw writes VF alone among the registers. -/
theorem State.reg_blit (s : State) (x y : RegIdx) (n : Fin 16) :
    ∃ f, ∀ r, (s.blit x y n).reg r = if r = vf then flagByte f else s.reg r :=
  ⟨_, fun r => State.reg_setReg _ vf r _⟩

/-- The registers above Vx are not loaded. -/
theorem reg_loadRegs_of_lt (s : State) {x r : RegIdx} (h : x < r) (w : Word) :
    ({ s with v := s.loadRegs x, i := w } : State).reg r = s.reg r := by
  have hr : ¬ r ≤ x := not_le.mpr h
  simp [State.reg, State.loadRegs, hr]

/-! ### The registers after any instruction -/

/-- A register that is no destination, and is not VF under a flag writer, is unchanged (R17). -/
theorem exec_reg_of_not_written {i : Instr} {s t : State} {r : RegIdx} (h : exec i s = .next t)
    (hdest : isDestination i r = false) (hflag : isFlagWriter i = true → r ≠ 15) : t.reg r = s.reg r := by
  cases i with
  | ldByte x _ | addByte x _ | ldReg x _ | orReg x _ | andReg x _ | xorReg x _ | ldVxDt x | rnd x _ =>
    cases h
    exact State.reg_setReg_ne _ _ (by simpa [isDestination] using hdest)
  | addReg x _ | subReg x _ | shr x _ | subnReg x _ | shl x _ =>
    cases h
    exact State.reg_setRegFlag_other _ _ _ (by simpa [isDestination] using hdest) (hflag rfl)
  | drw x y n =>
    simp only [exec, execDrw] at h
    split at h <;> cases h
    · rfl
    · obtain ⟨f, hblit⟩ := s.reg_blit x y n
      exact s.checkIndexed_keeps (fun u => u.reg r) _ _ ((hblit r).trans (if_neg (hflag rfl))) fun _ _ => rfl
  | ldVxMem x =>
    cases h
    have hr : x < r := by simpa [isDestination] using hdest
    exact s.checkIndexed_keeps (fun u => u.reg r) _ _ (reg_loadRegs_of_lt s hr _) fun _ _ => rfl
  | ldVxK x =>
    simp only [exec, execLdVxK] at h
    split at h <;> cases h
    · exact State.reg_setReg_ne _ _ (by simpa [isDestination] using hdest)
    · rfl
  | ldB | ldMemVx =>
    cases h
    exact s.checkIndexed_keeps (fun u => u.reg r) _ _ rfl fun _ _ => rfl
  | ret => simp only [exec, execRet] at h; split at h <;> cases h <;> rfl
  | callAddr => simp only [exec, execCallAddr] at h; split at h <;> cases h <;> rfl
  | jpV0 => simp only [exec, execJpV0] at h; split at h <;> cases h <;> rfl
  | skp => simp only [exec, execSkp] at h; split at h <;> cases h <;> rfl
  | sknp => simp only [exec, execSknp] at h; split at h <;> cases h <;> rfl
  | _ => cases h; rfl

/-- DRW completes exactly when it has a row to draw and every sprite byte exists (44_draw.md R97, R98). -/
theorem errorOf_drw_eq_none {x y : RegIdx} {n : Fin 16} {s : State} :
    errorOf (.drw x y n) s = none ↔ n.val ≠ 0 ∧ s.i.toNat + n.val ≤ 0x1000 := by
  simp only [errorOf, indexedError]
  split_ifs <;> simp <;> omega

/-- A flag writer that completes leaves a flag in VF, whatever its destination is (R16). -/
theorem exec_flagWriter_leaves_flag {i : Instr} {s t : State} (h : exec i s = .next t)
    (hwriter : isFlagWriter i = true) (hok : errorOf i s = none) : ∃ f, t.reg 15 = flagByte f := by
  cases i with
  | addReg | subReg | shr | subnReg | shl =>
    cases h
    exact ⟨_, State.reg_setRegFlag_flag ..⟩
  | drw x y n =>
    obtain ⟨hn, hbound⟩ := errorOf_drw_eq_none.mp hok
    obtain ⟨f, hblit⟩ := s.reg_blit x y n
    simp only [exec, execDrw] at h
    rw [if_neg hn, s.checkIndexed_ok _ (by omega)] at h
    cases h
    exact ⟨f, hblit 15⟩
  | _ => cases hwriter

/-! ### The statement -/

/-- Settles O13: the frame of the registers gives the first clause, the flag written last (`State.reg_setRegFlag`) the
others. -/
theorem flagRegisterWrittenOnlyAsFlagOrDestination : Obligations.FlagRegisterWrittenOnlyAsFlagOrDestination := by
  unfold Obligations.FlagRegisterWrittenOnlyAsFlagOrDestination
  refine fun s => ⟨fun i => ?_, fun y => ?_, fun y => ?_, fun y => ?_, fun y => ?_, fun y => ?_⟩
  · obtain ⟨t, ht⟩ := exec_next i s
    refine ⟨t, ht, fun hwriter hdest => ?_, fun hwriter hok => ?_⟩
    · exact exec_reg_of_not_written ht hdest (by simp [hwriter])
    · obtain ⟨f, hf⟩ := exec_flagWriter_leaves_flag ht hwriter hok
      exact hf ▸ flagByte_eq_zero_or_one f
  · exact ⟨_, rfl, (State.reg_setRegFlag_flag ..).trans (flagByte_carry ..)⟩
  · exact ⟨_, rfl, (State.reg_setRegFlag_flag ..).trans (flagByte_noBorrow ..)⟩
  · exact ⟨_, rfl, (State.reg_setRegFlag_flag ..).trans (flagByte_noBorrow ..)⟩
  · exact ⟨_, rfl, (congrArg _ (State.reg_setRegFlag_flag ..)).trans (toNat_flagByte_lowBit _)⟩
  · exact ⟨_, rfl, (congrArg _ (State.reg_setRegFlag_flag ..)).trans (toNat_flagByte_highBit _)⟩

end Sys2Proof.Machine
end

section
/-! PROOFS. What a step does not touch: the keyboard, ACC, and DT and ST but for their loads
(spec/40_decode_dispatch.md R64). -/

namespace Sys2Proof.Machine

/-! ### What an error leaves alone (60_exceptions.md R110) -/

theorem State.sameButPc_failFetch (s : State) (a : Nat) : State.SameButPc s (s.failFetch a) :=
  ⟨rfl, rfl, rfl, rfl, rfl, rfl, rfl, rfl, rfl, rfl⟩

theorem State.sameButPc_beginStep_raiseHere (s : State) (w : Word) (k : ErrorKind) (d : Detail) :
    State.SameButPc s ((s.beginStep w).raiseHere k d) :=
  ⟨rfl, rfl, rfl, rfl, rfl, rfl, rfl, rfl, rfl, rfl⟩

/-! ### An instruction raises, or completes -/

/-- i, run from s, completed in t: what the step returns stands, and a timer has changed only by its own load. -/
structure Completes (i : Instr) (s t : State) : Prop where
  result : t.result = s.result
  dt : t.dt = s.dt ∨ ∃ x, i = .ldDtVx x ∧ t.dt = s.reg x
  st : t.st = s.st ∨ ∃ x, i = .ldStVx x ∧ t.st = s.reg x

/-- The usual way to complete: without a write to a timer. -/
theorem Completes.of_timers_kept {i : Instr} {s t : State} (hresult : t.result = s.result) (hdt : t.dt = s.dt)
    (hst : t.st = s.st) : Completes i s t := ⟨hresult, .inl hdt, .inl hst⟩

/-- A checked access raises, or completes as the access itself does. -/
theorem State.checkIndexed_raises_or_completes {i : Instr} {s done : State} (count : Nat) (hdone : Completes i s done) :
    (∃ k d, s.checkIndexed count done = s.raiseHere k d) ∨ Completes i s (s.checkIndexed count done) := by
  rcases s.checkIndexed_cases count done with ⟨-, h⟩ | ⟨-, h⟩
  · exact .inr (by rwa [h])
  · exact .inl ⟨_, _, h⟩

/-- Every instruction either raises and does nothing else, or completes. -/
theorem exec_raises_or_completes {i : Instr} {s t : State} (h : exec i s = .next t) :
    (∃ k d, t = s.raiseHere k d) ∨ Completes i s t := by
  cases i with
  | ldDtVx x => cases h; exact .inr ⟨rfl, .inr ⟨x, rfl, rfl⟩, .inl rfl⟩
  | ldStVx x => cases h; exact .inr ⟨rfl, .inl rfl, .inr ⟨x, rfl, rfl⟩⟩
  | ret | callAddr | skp | sknp =>
    simp only [exec, execRet, execCallAddr, execSkp, execSknp] at h
    split at h <;> cases h
    · exact .inr (.of_timers_kept rfl rfl rfl)
    · exact .inl ⟨_, _, rfl⟩
  | jpV0 =>
    simp only [exec, execJpV0] at h
    split at h <;> cases h
    · exact .inl ⟨_, _, rfl⟩
    · exact .inr (.of_timers_kept rfl rfl rfl)
  | drw =>
    simp only [exec, execDrw] at h
    split at h <;> cases h
    · exact .inl ⟨_, _, rfl⟩
    · exact State.checkIndexed_raises_or_completes _ (.of_timers_kept rfl rfl rfl)
  | ldB | ldMemVx | ldVxMem =>
    cases h
    exact State.checkIndexed_raises_or_completes _ (.of_timers_kept rfl rfl rfl)
  | ldVxK =>
    simp only [exec, execLdVxK] at h
    split at h <;> cases h <;> exact .inr (.of_timers_kept rfl rfl rfl)
  | _ => cases h; exact .inr (.of_timers_kept rfl rfl rfl)

/-! ### The statement -/

/-- The word a fetch gives is made of the two bytes at PC. -/
theorem State.eq_of_fetchWord_ok {s : State} {w : Word} (h : s.fetchWord = .ok w) :
    w = s.readByte s.pc.toNat ++ s.readByte (s.pc.toNat + 1) := by
  rcases Nat.lt_or_ge 0xFFF (s.pc.toNat + 1) with hpc | hpc
  · cases (s.fetchWord_err hpc).symm.trans h
  · exact Except.ok.inj (h.symm.trans (s.fetchWord_ok hpc))

/-- Settles O18: a step that fails to fetch or to decode writes at most PC; one that executes keeps the keys and ACC
(`exec_keeps_inputs`), and its instruction raises or completes (`exec_raises_or_completes`). -/
theorem stepLeavesKeysAccumulatorAndTimers : Obligations.StepLeavesKeysAccumulatorAndTimers := by
  unfold Obligations.StepLeavesKeysAccumulatorAndTimers
  intro s
  rcases step_cases s with ⟨a, -, hstep⟩ | ⟨w, e, -, -, hstep⟩ | ⟨w, i, hfetch, hdecode, hstep⟩
  · exact ⟨_, hstep, rfl, rfl, .inl rfl, .inl rfl, fun _ => ⟨s.sameButPc_failFetch a, .inl rfl⟩⟩
  · exact ⟨_, hstep, rfl, rfl, .inl rfl, .inl rfl, fun _ => ⟨s.sameButPc_beginStep_raiseHere w _ _, .inr rfl⟩⟩
  · obtain ⟨t, ht⟩ := exec_next i (s.beginStep w)
    obtain ⟨hkeys, hacc, -⟩ := exec_keeps_inputs ht
    rw [← State.eq_of_fetchWord_ok hfetch, hdecode]
    refine ⟨t, hstep.trans ht, hkeys, hacc, ?_⟩
    rcases exec_raises_or_completes ht with ⟨k, d, rfl⟩ | hdone
    · exact ⟨.inl rfl, .inl rfl, fun _ => ⟨s.sameButPc_beginStep_raiseHere w k d, .inr rfl⟩⟩
    · refine ⟨?_, ?_, fun herr => ?_⟩
      · exact hdone.dt.imp_right fun ⟨x, hx, hdt⟩ => ⟨x, congrArg _ hx, hdt⟩
      · exact hdone.st.imp_right fun ⟨x, hx, hst⟩ => ⟨x, congrArg _ hx, hst⟩
      · rw [hdone.result] at herr
        cases herr

end Sys2Proof.Machine
end

section
/-! PROOFS. Control flow that raises no error: CLS, the jump to an address with its twin LD I, addr, and the skips on a
literal (spec/41_control_flow.md R68, R70, R72, R73; spec/43_memory_index.md R91). -/

namespace Sys2Proof.Machine

/-! ### A skip on a comparison of two bytes (R72 to R75) -/

/-- The skip of the SE forms. -/
theorem State.skipIf_beq (s : State) (a b : Byte) :
    s.skipIf (a == b) = { s with pc := if a = b then s.pc + 2 else s.pc } := by
  simp only [State.skipIf, beq_iff_eq]

/-- The skip of the SNE forms. -/
theorem State.skipIf_bne (s : State) (a b : Byte) :
    s.skipIf (a != b) = { s with pc := if a = b then s.pc else s.pc + 2 } := by
  simp only [State.skipIf, bne_iff_ne, ne_eq, ite_not]

/-! ### The statements -/

/-- Settles O23: CLS leaves the blank display, whose every pixel is 0 (`Display.pixel_blank`). -/
theorem clsBlanksDisplay : Obligations.ClsBlanksDisplay := by
  unfold Obligations.ClsBlanksDisplay
  exact fun s => ⟨{ s with disp := Display.blank }, rfl, rfl, Display.pixel_blank⟩

/-- Settles O25: the operand is written zero-extended to PC or to I, and zero extension keeps its value
(`toNat_zext12`). -/
theorem jumpAndLoadIndexTakeTheAddress : Obligations.JumpAndLoadIndexTakeTheAddress := by
  unfold Obligations.JumpAndLoadIndexTakeTheAddress
  refine fun nnn s => ⟨⟨s.setPc (zext12 nnn), rfl, rfl, ?_⟩, ⟨s.setI (zext12 nnn), rfl, rfl, ?_⟩⟩
  · rw [State.setPc_pc, toNat_zext12]
  · rw [State.setI_i, toNat_zext12]

/-- Settles O28: SE skips on equality (`State.skipIf_beq`), SNE on inequality (`State.skipIf_bne`). -/
theorem skipsOnLiteral : Obligations.SkipsOnLiteral := by
  unfold Obligations.SkipsOnLiteral
  exact fun x kk s =>
    ⟨congrArg Host.Outcome.next (s.skipIf_beq (s.reg x) kk), congrArg Host.Outcome.next (s.skipIf_bne (s.reg x) kk)⟩

end Sys2Proof.Machine
end

section
/-! PROOFS. The arithmetic/logic group (spec/42_alu.md R79 to R89). Every instruction of it ends in one write of Vx
(`State.setReg`) or in one write of Vx and then of VF (`State.setRegFlag`); so each clause below is the value written,
the flag written, and the registers that these two operations leave alone. -/

namespace Sys2Proof.Machine

/-! ### The results as numbers (R78, R87, R89) -/

/-- A wrapping subtraction is the integer difference modulo 256. -/
theorem toNat_byteSub (a b : Byte) : ((a - b).toNat : Int) = ((a.toNat : Int) - (b.toNat : Int)) % 256 := by
  have ha := a.isLt
  have hb := b.isLt
  rw [BitVec.toNat_sub]
  omega

/-- A right shift by one halves. -/
theorem toNat_byteShiftRight_one (a : Byte) : (a >>> 1).toNat = a.toNat / 2 := by
  rw [BitVec.toNat_ushiftRight, Nat.shiftRight_eq_div_pow, pow_one]

/-- A left shift by one doubles modulo 256. -/
theorem toNat_byteShiftLeft_one (a : Byte) : (a <<< 1).toNat = 2 * a.toNat % 256 := by
  rw [BitVec.toNat_shiftLeft, Nat.shiftLeft_eq, pow_one, Nat.mul_comm]

/-! ### The statements -/

/-- Settles O33: the sum is written modulo 256, then the carry (`flagByte_carry`) into VF. -/
theorem addSetsCarry : Obligations.AddSetsCarry := by
  unfold Obligations.AddSetsCarry
  refine fun x y s => ⟨_, rfl, rfl, fun hx => ?_, ?_, fun r => State.reg_setRegFlag_other _ _ _⟩
  · rw [State.reg_setRegFlag_dest _ _ _ hx, BitVec.toNat_add]
  · rw [State.reg_setRegFlag_flag, flagByte_carry]

/-- Settles O34: SUB and SUBN differ in the order of their operands alone; the difference is `toNat_byteSub`, the flag
`flagByte_noBorrow`. -/
theorem subtractionsSetNoBorrow : Obligations.SubtractionsSetNoBorrow := by
  unfold Obligations.SubtractionsSetNoBorrow
  refine fun x y s => ⟨⟨_, rfl, rfl, fun hx => ?_, ?_, fun r => State.reg_setRegFlag_other _ _ _⟩,
    ⟨_, rfl, rfl, fun hx => ?_, ?_, fun r => State.reg_setRegFlag_other _ _ _⟩⟩
  · rw [State.reg_setRegFlag_dest _ _ _ hx, toNat_byteSub]
  · rw [State.reg_setRegFlag_flag, flagByte_noBorrow]
  · rw [State.reg_setRegFlag_dest _ _ _ hx, toNat_byteSub]
  · rw [State.reg_setRegFlag_flag, flagByte_noBorrow]

/-- Settles O35: shifting by one halves or doubles, and the bit it loses is the remainder by 2
(`toNat_flagByte_lowBit`) or the quotient by 128 (`toNat_flagByte_highBit`). -/
theorem shiftsKeepTheLostBit : Obligations.ShiftsKeepTheLostBit := by
  unfold Obligations.ShiftsKeepTheLostBit
  refine fun x y s => ⟨⟨_, rfl, rfl, fun hx => ?_, ?_, fun r => State.reg_setRegFlag_other _ _ _⟩,
    ⟨_, rfl, rfl, fun hx => ?_, ?_, fun r => State.reg_setRegFlag_other _ _ _⟩⟩
  · rw [State.reg_setRegFlag_dest _ _ _ hx, toNat_byteShiftRight_one]
  · rw [State.reg_setRegFlag_flag, toNat_flagByte_lowBit]
  · rw [State.reg_setRegFlag_dest _ _ _ hx, toNat_byteShiftLeft_one]
  · rw [State.reg_setRegFlag_flag, toNat_flagByte_highBit]

/-- Settles O31: one register write each; a bit of a bitwise combination is the combination of the bits. -/
theorem loadsAndBitwise : Obligations.LoadsAndBitwise := by
  unfold Obligations.LoadsAndBitwise
  refine fun x y kk s => ⟨⟨_, rfl, rfl, State.reg_setReg_self .., fun r => State.reg_setReg_ne _ _⟩,
    ⟨_, rfl, rfl, State.reg_setReg_self .., fun r => State.reg_setReg_ne _ _⟩,
    ⟨_, rfl, rfl, fun k => ?_, fun r => State.reg_setReg_ne _ _⟩,
    ⟨_, rfl, rfl, fun k => ?_, fun r => State.reg_setReg_ne _ _⟩,
    ⟨_, rfl, rfl, fun k => ?_, fun r => State.reg_setReg_ne _ _⟩⟩
  · rw [State.reg_setReg_self, BitVec.getLsbD_or]
  · rw [State.reg_setReg_self, BitVec.getLsbD_and]
  · rw [State.reg_setReg_self, BitVec.getLsbD_xor]

/-- Settles O32: one register write, of the sum modulo 256. -/
theorem addLiteralWrapsWithoutFlag : Obligations.AddLiteralWrapsWithoutFlag := by
  unfold Obligations.AddLiteralWrapsWithoutFlag
  refine fun x kk s => ⟨_, rfl, rfl, ?_, fun r => State.reg_setReg_ne _ _⟩
  rw [State.reg_setReg_self, BitVec.toNat_add]

end Sys2Proof.Machine
end

section
/-! PROOFS. Who writes the display (spec/44_draw.md R101): of the instructions CLS and DRW, of the host's calls a step
alone. -/

namespace Sys2Proof.Machine

/-- An instruction after which the display differs is CLS or a DRW. -/
theorem cls_or_drw_of_exec_disp_ne {i : Instr} {s t : State} (h : exec i s = .next t) (hne : t.disp ≠ s.disp) :
    i = .cls ∨ ∃ x y n, i = .drw x y n := by
  cases i with
  | cls => exact .inl rfl
  | drw x y n => exact .inr ⟨x, y, n, rfl⟩
  | ret | callAddr | jpV0 | skp | sknp | ldVxK =>
    simp only [exec, execRet, execCallAddr, execJpV0, execSkp, execSknp, execLdVxK] at h
    split at h <;> cases h <;> exact hne.elim rfl
  | ldB | ldMemVx | ldVxMem =>
    cases h
    exact hne.elim (s.checkIndexed_keeps State.disp _ _ rfl fun _ _ => rfl)
  | _ => cases h; exact hne.elim rfl

/-- A step leaves a next state; where the display differs in it, the two bytes at PC decode to CLS or to a DRW. -/
theorem step_next_disp (s : State) : ∃ t, step s = .next t ∧ (t.disp ≠ s.disp →
    ∃ i, decode s.params.rndSupported (s.readByte s.pc.toNat ++ s.readByte (s.pc.toNat + 1)) = .ok i ∧
      (i = .cls ∨ ∃ x y n, i = .drw x y n)) := by
  rcases step_cases s with ⟨a, -, hstep⟩ | ⟨w, e, -, -, hstep⟩ | ⟨w, i, hfetch, hdecode, hstep⟩
  · exact ⟨_, hstep, absurd rfl⟩
  · exact ⟨_, hstep, absurd rfl⟩
  · obtain ⟨t, ht⟩ := exec_next i (s.beginStep w)
    rw [← State.eq_of_fetchWord_ok hfetch]
    exact ⟨t, hstep.trans ht, fun hne => ⟨i, hdecode, cls_or_drw_of_exec_disp_ne ht hne⟩⟩

/-- A tick writes ACC and the timers only (60_exceptions.md R119). -/
@[simp] theorem tick_disp (elapsed : Nat) (s : State) : (tick elapsed s).disp = s.disp := by
  rcases Nat.lt_or_ge s.params.tickNum ((s.acc + elapsed) * s.params.tickDen) with h | h
  · rw [tick_of_crossed h]
  · rw [tick_of_not_crossed h]

/-- Settles O16: a step writes the display only through CLS or DRW (`step_next_disp`), and no other call writes it;
read_display leaves the whole state. -/
theorem displayWrittenOnlyByClsAndDrw : Obligations.DisplayWrittenOnlyByClsAndDrw := by
  unfold Obligations.DisplayWrittenOnlyByClsAndDrw
  intro c s
  cases c with
  | step =>
    obtain ⟨t, hstep, hdisp⟩ := step_next_disp s
    exact ⟨t, hstep, fun hne => ⟨rfl, hdisp hne⟩, nofun⟩
  | tick elapsed => exact ⟨_, rfl, absurd (tick_disp elapsed s), nofun⟩
  | setKey | isSoundActive | readRegisters => exact ⟨_, rfl, absurd rfl, nofun⟩
  | readDisplay => exact ⟨s, rfl, absurd rfl, fun _ => ⟨rfl, rfl⟩⟩

end Sys2Proof.Machine
end

section
/-! PROOFS. The timer loads and stores, and the sound signal (spec/45_keyboard_timer.md R105 to R107). -/

namespace Sys2Proof.Machine

/-- The sound signal is on exactly while ST is not 0 (60_exceptions.md R122). -/
theorem isSoundActive_iff (s : State) : isSoundActive s = true ↔ s.st ≠ 0 := bne_iff_ne

/-- Settles O48: LD Vx, DT is one register write, the stores are one timer write each; the sound signal follows the ST
just written (`isSoundActive_iff`). -/
theorem timerLoadsAndStores : Obligations.TimerLoadsAndStores := by
  unfold Obligations.TimerLoadsAndStores
  refine fun x s => ⟨?load, ?storeDelay, ?storeSound⟩
  case load => exact ⟨s.setReg x s.dt, rfl, rfl, State.reg_setReg_self .., fun r => State.reg_setReg_ne _ _⟩
  case storeDelay => rfl
  case storeSound => exact ⟨{ s with st := s.reg x }, rfl, rfl, isSoundActive_iff _⟩

end Sys2Proof.Machine
end

section
/-! PROOFS. The host's reading of the sound signal (spec/60_exceptions.md R122). -/

namespace Sys2Proof.Machine

/-- The sound signal is off exactly while ST is 0 (60_exceptions.md R122). -/
theorem isSoundActive_eq_false_iff (s : State) : isSoundActive s = false ↔ s.st = 0 := bne_eq_false_iff_eq

/-- is_sound_active() answers with the sound signal of the state it is called on. -/
theorem reply_isSoundActive_eq_sound_iff (s : State) (b : Bool) :
    reply .isSoundActive s = .sound b ↔ isSoundActive s = b :=
  iff_of_eq (Reply.sound.injEq ..)

/-- Settles O51: the call leaves the state, and its answer is the sound signal (`reply_isSoundActive_eq_sound_iff`), which
is on or off as ST is not 0 or is 0. -/
theorem soundActiveFollowsSoundTimer : Obligations.SoundActiveFollowsSoundTimer := by
  unfold Obligations.SoundActiveFollowsSoundTimer
  refine fun s => ⟨?unchanged, ?on, ?off⟩
  case unchanged => rfl
  case on => exact (reply_isSoundActive_eq_sound_iff s true).trans (isSoundActive_iff s)
  case off => exact (reply_isSoundActive_eq_sound_iff s false).trans (isSoundActive_eq_false_iff s)

end Sys2Proof.Machine
end

section
/-! PROOFS. The decoder and the encoder are inverse to each other, and which words decode (spec/30_encoding.md R47 to
R54). -/

namespace Sys2Proof

/-! ### The rows of the decode table are disjoint (R52) -/

/-- Two rows that match one word agree on the bits that both test. -/
theorem pattern_and_mask_eq_of_matchesWord {r q : DecodeRow} {w : Word} (hr : r.matchesWord w = true)
    (hq : q.matchesWord w = true) : r.pattern &&& q.mask = q.pattern &&& r.mask := by
  simp only [DecodeRow.matchesWord, beq_iff_eq] at hr hq
  rw [← hr, ← hq, BitVec.and_assoc, BitVec.and_assoc, BitVec.and_comm q.mask]

/-- The rows at two different places disagree on a bit that both test. -/
theorem eq_of_pattern_and_mask_eq : ∀ j k : Fin decodeTable.length,
    decodeTable[j.val].pattern &&& decodeTable[k.val].mask = decodeTable[k.val].pattern &&& decodeTable[j.val].mask →
    j = k := by
  decide

/-- Settles O5: rows that match one word agree on the bits both test, which no two different places of the table do. -/
theorem atMostOneDecodeRowMatches : Obligations.AtMostOneDecodeRowMatches := by
  unfold Obligations.AtMostOneDecodeRowMatches
  exact fun w j k hj hk => eq_of_pattern_and_mask_eq j k (pattern_and_mask_eq_of_matchesWord hj hk)

/-- A word has one row at most. -/
theorem row_unique {r q : DecodeRow} {w : Word} (hr : r ∈ decodeTable) (hq : q ∈ decodeTable)
    (hrw : r.matchesWord w = true) (hqw : q.matchesWord w = true) : r = q := by
  obtain ⟨j, hj, rfl⟩ := List.getElem_of_mem hr
  obtain ⟨k, hk, rfl⟩ := List.getElem_of_mem hq
  obtain rfl : j = k := congrArg Fin.val (atMostOneDecodeRowMatches w ⟨j, hj⟩ ⟨k, hk⟩ hrw hqw)
  rfl

/-! ### Decoding by the row of a word -/

/-- What decodes, decodes by a row that takes part and matches. -/
theorem exists_row_of_decode_ok {rnd : Bool} {w : Word} {i : Instr} (h : decode rnd w = .ok i) :
    ∃ r ∈ decodeTable, r.present rnd = true ∧ r.matchesWord w = true ∧ r.build w = i := by
  unfold decode at h
  split at h
  next r hr =>
    have htest := List.find?_some hr
    rw [Bool.and_eq_true] at htest
    obtain ⟨hpresent, hmatch⟩ := htest
    exact ⟨r, List.mem_of_find?_eq_some hr, hpresent, hmatch, Except.ok.inj h⟩
  next => cases h

/-- A word that no row taking part matches is Unknown. -/
theorem decode_eq_unknown {rnd : Bool} {w : Word}
    (h : ∀ r ∈ decodeTable, r.present rnd = true → r.matchesWord w = false) :
    decode rnd w = .error (.unknown w) := by
  cases hd : decode rnd w with
  | ok i =>
    obtain ⟨r, hr, hpresent, hmatch, -⟩ := exists_row_of_decode_ok hd
    cases (h r hr hpresent).symm.trans hmatch
  | error e =>
    unfold decode at hd
    split at hd
    · cases hd
    · exact hd.symm

/-- A word is decoded by the row that matches it, where that row takes part. -/
theorem decode_eq_ok {rnd : Bool} {w : Word} {r : DecodeRow} (hr : r ∈ decodeTable) (hpresent : r.present rnd = true)
    (hmatch : r.matchesWord w = true) : decode rnd w = .ok (r.build w) := by
  unfold decode
  split
  next q hq =>
    have htest := List.find?_some hq
    rw [Bool.and_eq_true] at htest
    obtain ⟨-, hqmatch⟩ := htest
    rw [row_unique hr (List.mem_of_find?_eq_some hq) hmatch hqmatch]
  next hnone =>
    simpa [hpresent, hmatch] using List.find?_eq_none.mp hnone r hr

/-! ### Encode, then decode -/

namespace Laws.InItsRow

/-- Every instruction's word is of the row that builds the instruction back. -/
theorem all (i : Instr) : Statement i := by
  cases i with
  | cls => exact cls
  | ret => exact ret
  | jpAddr nnn => exact jpAddr nnn
  | callAddr nnn => exact callAddr nnn
  | seByte x kk => exact seByte x kk
  | sneByte x kk => exact sneByte x kk
  | seReg x y => exact seReg x y
  | ldByte x kk => exact ldByte x kk
  | addByte x kk => exact addByte x kk
  | ldReg x y => exact ldReg x y
  | orReg x y => exact orReg x y
  | andReg x y => exact andReg x y
  | xorReg x y => exact xorReg x y
  | addReg x y => exact addReg x y
  | subReg x y => exact subReg x y
  | shr x y => exact shr x y
  | subnReg x y => exact subnReg x y
  | shl x y => exact shl x y
  | sneReg x y => exact sneReg x y
  | ldI nnn => exact ldI nnn
  | jpV0 nnn => exact jpV0 nnn
  | rnd x kk => exact rnd x kk
  | drw x y n => exact drw x y n
  | skp x => exact skp x
  | sknp x => exact sknp x
  | ldVxDt x => exact ldVxDt x
  | ldVxK x => exact ldVxK x
  | ldDtVx x => exact ldDtVx x
  | ldStVx x => exact ldStVx x
  | addI x => exact addI x
  | ldF x => exact ldF x
  | ldB x => exact ldB x
  | ldMemVx x => exact ldMemVx x
  | ldVxMem x => exact ldVxMem x

end Laws.InItsRow

/-- Settles O2: an instruction's word is of its own row (`Laws.InItsRow.all`), and of no other (`row_unique`). -/
theorem decodeOfEncodeIsIdentity : Obligations.DecodeOfEncodeIsIdentity := by
  unfold Obligations.DecodeOfEncodeIsIdentity
  intro rnd i
  obtain ⟨r, hr, hmatch, hbuild, hpresent⟩ := Laws.InItsRow.all i
  refine ⟨fun hwf => ?_, fun hwf => decode_eq_unknown fun q hq hqpresent => ?_⟩
  · rw [decode_eq_ok hr ((hpresent rnd).trans hwf) hmatch, hbuild]
  · by_contra hqmatch
    rw [← row_unique hr hq hmatch (Bool.not_eq_false _ ▸ hqmatch), hpresent, hwf] at hqpresent
    cases hqpresent

/-! ### Decode, then encode -/

@[simp] theorem nibble_fieldX (w : Word) : nibble (fieldX w) = nib w 2 := by
  apply BitVec.eq_of_toNat_eq
  rw [toNat_nibble]
  rfl

@[simp] theorem nibble_fieldY (w : Word) : nibble (fieldY w) = nib w 1 := by
  apply BitVec.eq_of_toNat_eq
  rw [toNat_nibble]
  rfl

@[simp] theorem nibble_fieldN (w : Word) : nibble (fieldN w) = nib w 0 := by
  apply BitVec.eq_of_toNat_eq
  rw [toNat_nibble]
  rfl

/-- A test that masks nothing of a nibble says what that nibble is. -/
theorem nib_of_and {w m p : Word} {k : Nat} (h : w &&& m = p) (hm : nib m k = 15#4) : nib w k = nib p k := by
  rw [← h, nib_and, hm, and_ones]

/-- A word with F_NNN's tested bits is put together again from its group and nnn. -/
theorem formNNN_fieldNNN {w : Word} {g : BitVec 4} (h : w &&& 0xF000#16 = formNNN g 0) :
    formNNN g (fieldNNN w) = w := by
  obtain ⟨h3, h2, h1, h0⟩ := nib_formNNN g (fieldNNN w)
  have hg : nib w 3 = g := (nib_of_and h rfl).trans (nib_formNNN g 0).1
  refine eq_of_nibs (h3.trans hg.symm) (h2.trans ?_) (h1.trans ?_) (h0.trans ?_) <;>
    exact BitVec.extractLsb'_extractLsb'_of_le (by decide)

/-- A word with F_XKK's tested bits is put together again from its group, x and kk. -/
theorem formXKK_fieldX_fieldKK {w : Word} {g : BitVec 4} (h : w &&& 0xF000#16 = formXKK g 0 0) :
    formXKK g (fieldX w) (fieldKK w) = w := by
  obtain ⟨h3, h2, h1, h0⟩ := nib_formXKK g (fieldX w) (fieldKK w)
  have hg : nib w 3 = g := (nib_of_and h rfl).trans (nib_formXKK g 0 0).1
  refine eq_of_nibs (h3.trans hg.symm) (h2.trans (nibble_fieldX w)) (h1.trans ?_) (h0.trans ?_) <;>
    exact BitVec.extractLsb'_extractLsb'_of_le (by decide)

/-- A word with F_XYN's tested bits is put together again from its group, x, y and n. -/
theorem formXY_fieldX_fieldY_fieldN {w : Word} {g : BitVec 4} (h : w &&& 0xF000#16 = formXY g 0 0 0) :
    formXY g (fieldX w) (fieldY w) (nibble (fieldN w)) = w := by
  obtain ⟨h3, h2, h1, h0⟩ := nib_formXY g (nibble (fieldN w)) (fieldX w) (fieldY w)
  have hg : nib w 3 = g := (nib_of_and h rfl).trans (nib_formXY g 0 0 0).1
  exact eq_of_nibs (h3.trans hg.symm) (h2.trans (nibble_fieldX w)) (h1.trans (nibble_fieldY w))
    (h0.trans (nibble_fieldN w))

/-- A word with F_XY's tested bits is put together again from its group, x, y and its low nibble. -/
theorem formXY_fieldX_fieldY {w : Word} {g s : BitVec 4} (h : w &&& 0xF00F#16 = formXY g 0 0 s) :
    formXY g (fieldX w) (fieldY w) s = w := by
  obtain ⟨h3, h2, h1, h0⟩ := nib_formXY g s (fieldX w) (fieldY w)
  obtain ⟨k3, -, -, k0⟩ := nib_formXY g s 0 0
  exact eq_of_nibs (h3.trans (k3.symm.trans (nib_of_and h rfl).symm)) (h2.trans (nibble_fieldX w))
    (h1.trans (nibble_fieldY w)) (h0.trans (k0.symm.trans (nib_of_and h rfl).symm))

/-- A word with F_X's tested bits is put together again from its group, x and its low byte. -/
theorem formX_fieldX {w : Word} {g : BitVec 4} {ss : Byte} (h : w &&& 0xF0FF#16 = formX g 0 ss) :
    formX g (fieldX w) ss = w := by
  obtain ⟨h3, h2, h1, h0⟩ := nib_formXKK g (fieldX w) ss
  obtain ⟨k3, -, k1, k0⟩ := nib_formXKK g 0 ss
  exact eq_of_nibs (h3.trans (k3.symm.trans (nib_of_and h rfl).symm)) (h2.trans (nibble_fieldX w))
    (h1.trans (k1.symm.trans (nib_of_and h rfl).symm)) (h0.trans (k0.symm.trans (nib_of_and h rfl).symm))

/-- The instruction a row builds from a word that it matches is encoded as that word. -/
theorem encode_build {r : DecodeRow} (hr : r ∈ decodeTable) {w : Word} (hmatch : r.matchesWord w = true) :
    encode (r.build w) = w := by
  have h : w &&& r.mask = r.pattern := by simpa [DecodeRow.matchesWord] using hmatch
  clear hmatch
  have hall : w &&& 0xFFFF#16 = w := BitVec.and_allOnes
  simp only [decodeTable, decodeTableLow, decodeTableHigh, List.cons_append, List.nil_append, List.mem_cons,
    List.not_mem_nil, or_false] at hr
  rcases hr with rfl | rfl | rfl | rfl | rfl | rfl | rfl | rfl | rfl | rfl | rfl | rfl | rfl | rfl | rfl | rfl | rfl |
    rfl | rfl | rfl | rfl | rfl | rfl | rfl | rfl | rfl | rfl | rfl | rfl | rfl | rfl | rfl | rfl | rfl
  exacts [h.symm.trans hall, h.symm.trans hall, formNNN_fieldNNN h, formNNN_fieldNNN h,
    formXKK_fieldX_fieldKK h, formXKK_fieldX_fieldKK h, formXY_fieldX_fieldY h, formXKK_fieldX_fieldKK h,
    formXKK_fieldX_fieldKK h, formXY_fieldX_fieldY h, formXY_fieldX_fieldY h, formXY_fieldX_fieldY h,
    formXY_fieldX_fieldY h, formXY_fieldX_fieldY h, formXY_fieldX_fieldY h, formXY_fieldX_fieldY h,
    formXY_fieldX_fieldY h, formXY_fieldX_fieldY h, formXY_fieldX_fieldY h, formNNN_fieldNNN h, formNNN_fieldNNN h,
    formXKK_fieldX_fieldKK h, formXY_fieldX_fieldY_fieldN h, formX_fieldX h, formX_fieldX h, formX_fieldX h,
    formX_fieldX h, formX_fieldX h, formX_fieldX h, formX_fieldX h, formX_fieldX h, formX_fieldX h, formX_fieldX h,
    formX_fieldX h]

/-- Settles O3: the word is put together again from the fields of its row (`encode_build`); that row is the
instruction's own, so it takes part exactly when the instruction exists. -/
theorem encodeOfDecodeIsIdentity : Obligations.EncodeOfDecodeIsIdentity := by
  unfold Obligations.EncodeOfDecodeIsIdentity
  intro rnd w i hdecode
  obtain ⟨r, hr, hpresent, hmatch, rfl⟩ := exists_row_of_decode_ok hdecode
  have hencode : encode (r.build w) = w := encode_build hr hmatch
  obtain ⟨q, hq, hqmatch, -, hqpresent⟩ := Laws.InItsRow.all (r.build w)
  rw [hencode] at hqmatch
  rw [row_unique hq hr hqmatch hmatch] at hqpresent
  exact ⟨hencode, (hqpresent rnd).symm.trans hpresent⟩

/-! ### The words that decode to nothing (R54) -/

/-- The k-th nibble as a number. -/
theorem toNat_nib (w : Word) (k : Nat) : (nib w k).toNat = w.toNat / 16 ^ k % 16 := by
  simp [nib, Nat.shiftRight_eq_div_pow, Nat.pow_mul]

/-- The nibbles of a written-out word. -/
theorem nib_ofNat (n k : Nat) : nib (BitVec.ofNat 16 n) k = BitVec.ofNat 4 (n % 65536 / 16 ^ k) := by
  apply BitVec.eq_of_toNat_eq
  rw [toNat_nib, BitVec.toNat_ofNat, BitVec.toNat_ofNat]

/-- The list of R54: the words that are Unknown under a setting of RND_SUPPORTED. -/
def UnknownWord (rnd : Bool) (w : Word) : Prop :=
  let g := w.toNat / 4096
  let n := w.toNat % 16
  let kk := w.toNat % 256
  (g = 0 ∧ w.toNat ≠ 0x00E0 ∧ w.toNat ≠ 0x00EE) ∨ ((g = 5 ∨ g = 9) ∧ n ≠ 0) ∨
  (g = 8 ∧ n ∈ [8, 9, 0xA, 0xB, 0xC, 0xD, 0xF]) ∨ (g = 0xC ∧ rnd = false) ∨
  (g = 0xE ∧ kk ∉ [0x9E, 0xA1]) ∨
  (g = 0xF ∧ kk ∉ [0x07, 0x0A, 0x15, 0x18, 0x1E, 0x29, 0x33, 0x55, 0x65])

/-- No row that takes part matches exactly the words of the list: a row tests nibbles, the list names numbers, and a
word is the number its four nibbles write. -/
theorem no_row_iff_unknownWord (rnd : Bool) (w : Word) :
    (∀ r ∈ decodeTable, r.present rnd = true → r.matchesWord w = false) ↔ UnknownWord rnd w := by
  have hlt : w.toNat < 65536 := w.isLt
  have hg : w.toNat / 4096 = w.toNat / 4096 % 16 := by omega
  have hkk : w.toNat % 256 = w.toNat / 16 % 16 * 16 + w.toNat % 16 := by omega
  have hw : w.toNat = w.toNat / 4096 % 16 * 4096 + w.toNat / 256 % 16 * 256 +
      (w.toNat / 16 % 16 * 16 + w.toNat % 16) := by omega
  simp only [decodeTable, decodeTableLow, decodeTableHigh, List.cons_append, List.nil_append, List.forall_mem_cons,
    ← Bool.not_eq_true, matchesWord_iff, DecodeRow.present, UnknownWord]
  rw [hg, hkk]
  simp only [Bool.not_false, Bool.true_or, BitVec.ofNat_eq_ofNat, nib_ofNat, Nat.mod_succ, Nat.reducePow,
    Nat.reduceDiv, and_ones, Nat.reduceMod, ← BitVec.toNat_inj, toNat_nib, BitVec.toNat_ofNat, Nat.zero_mod,
    BitVec.reduceOfNat, pow_one, pow_zero, Nat.div_one, not_and, forall_const, Nat.ofNat_pos, Nat.div_self, Nat.one_mod,
    BitVec.and_zero, and_self, and_true, true_and, Bool.not_true, Bool.false_or, List.not_mem_nil, Bool.or_eq_true,
    Bool.not_eq_eq_eq_not, IsEmpty.forall_iff, implies_true, ne_eq, List.mem_cons, or_false, Bool.not_eq_true, not_or]
  have h3 : w.toNat / 4096 % 16 < 16 := Nat.mod_lt _ (by decide)
  have h2 : w.toNat / 256 % 16 < 16 := Nat.mod_lt _ (by decide)
  have h1 : w.toNat / 16 % 16 < 16 := Nat.mod_lt _ (by decide)
  have h0 : w.toNat % 16 < 16 := Nat.mod_lt _ (by decide)
  generalize w.toNat / 4096 % 16 = a at *
  generalize w.toNat / 256 % 16 = b at *
  generalize w.toNat / 16 % 16 = c at *
  generalize w.toNat % 16 = d at *
  interval_cases a <;> simp <;> omega

/-- Settles O4: a word is Unknown exactly when no row that takes part matches it, so when it is on the list
(`no_row_iff_unknownWord`). -/
theorem unknownWordsAreExactlyThese : Obligations.UnknownWordsAreExactlyThese := by
  unfold Obligations.UnknownWordsAreExactlyThese
  intro rnd w
  show (UnknownWord rnd w → _) ∧ (¬ UnknownWord rnd w → _)
  rw [← no_row_iff_unknownWord]
  refine ⟨decode_eq_unknown, fun hrow => ?_⟩
  push Not at hrow
  obtain ⟨r, hr, hpresent, hmatch⟩ := hrow
  exact ⟨_, decode_eq_ok hr hpresent (Bool.not_eq_false _ ▸ hmatch)⟩

/-- Settles O1: eight words, each run through the decode table. -/
theorem specWordsDecode : Obligations.SpecWordsDecode := by
  unfold Obligations.SpecWordsDecode
  decide

end Sys2Proof
end

section
/-! PROOFS. All that an instruction can do, said once: it raises the error of the error table and does nothing else, or
the table gives it none and it does its work (spec/60_exceptions.md R108 to R110). -/

namespace Sys2Proof.Machine

/-! ### The bounds check and the table's clause for it -/

/-- The table gives an access no error exactly when its last byte exists. -/
theorem indexedError_eq_none {s : State} {count : Nat} : indexedError s count = none ↔ s.i.toNat + count ≤ 0x1000 := by
  unfold indexedError
  split <;> simp <;> omega

/-- The error the table gives an access that does not fit. -/
theorem indexedError_of_lt {s : State} {count : Nat} (h : 0x1000 < s.i.toNat + count) :
    indexedError s count = some (.outOfBoundsAccess, .address (max s.i.toNat 0x1000)) := if_pos h

/-- A checked access does what the table says. -/
theorem State.checkIndexed_spec (s done : State) (count : Nat) :
    (∃ k d, indexedError s count = some (k, d) ∧ s.checkIndexed count done = s.raiseHere k d) ∨
    (indexedError s count = none ∧ s.checkIndexed count done = done) := by
  rcases s.checkIndexed_cases count done with ⟨hfits, hdone⟩ | ⟨hbeyond, hraise⟩
  · exact .inr ⟨indexedError_eq_none.mpr (by omega), hdone⟩
  · exact .inl ⟨_, _, indexedError_of_lt (by omega), hraise⟩

/-! ### The work of an instruction that completes -/

/-- i, run from s, does its work and leaves t. The instructions that raise in some states, or that go one of two ways,
are written out with the condition they do so under; every other one is its meaning. -/
def WorkDone (i : Instr) (s t : State) : Prop :=
  match i with
  | .ret => ∃ h : 0 < s.sp.val, t = s.popPc h
  | .callAddr nnn => ∃ h : s.sp.val < 16, t = (s.push s.pc h).setPc (zext12 nnn)
  | .jpV0 nnn =>
    offsetTarget nnn (s.reg 0) ≤ 0xFFF ∧ t = s.setPc (BitVec.ofNat 16 (offsetTarget nnn (s.reg 0)))
  | .drw x y n => t = s.blit x y n
  | .skp x => ∃ k, keyOf (s.reg x) = some k ∧ t = s.skipIf (s.key k)
  | .sknp x => ∃ k, keyOf (s.reg x) = some k ∧ t = s.skipIf (!s.key k)
  | .ldVxK x =>
    (∃ k, s.firstKey = some k ∧ t = s.setReg x (BitVec.ofNat 8 k.val)) ∨ (s.firstKey = none ∧ t = s.rollBack)
  | .ldB x =>
    s.i.toNat + 3 ≤ 0x1000 ∧ t = { s with mem := s.mem.storeBytes s.i.toNat (decimalDigits (s.reg x)) }
  | .ldMemVx x => s.i.toNat + (x.val + 1) ≤ 0x1000 ∧
    t = { s with mem := s.mem.storeBytes s.i.toNat (s.regsUpTo x), i := indexAfter s.i x }
  | .ldVxMem x => s.i.toNat + (x.val + 1) ≤ 0x1000 ∧ t = { s with v := s.loadRegs x, i := indexAfter s.i x }
  | i => exec i s = .next t

/-- A checked access raises the table's error, or does its work. -/
theorem checkIndexed_raises_or_works {i : Instr} {s done : State} {count : Nat}
    (htable : errorOf i s = indexedError s count) (hdone : s.i.toNat + count ≤ 0x1000 → WorkDone i s done) :
    (∃ k d, errorOf i s = some (k, d) ∧ s.checkIndexed count done = s.raiseHere k d) ∨
    (errorOf i s = none ∧ WorkDone i s (s.checkIndexed count done)) := by
  rcases s.checkIndexed_spec done count with ⟨k, d, herr, hraise⟩ | ⟨hok, hwork⟩
  · exact .inl ⟨k, d, htable.trans herr, hraise⟩
  · exact .inr ⟨htable.trans hok, by rw [hwork]; exact hdone (indexedError_eq_none.mp hok)⟩

/-- Every instruction raises the error the table gives it in this state and does nothing else, or the table gives it
none and it does its work. -/
theorem exec_cases {i : Instr} {s t : State} (h : exec i s = .next t) :
    (∃ k d, errorOf i s = some (k, d) ∧ t = s.raiseHere k d) ∨ (errorOf i s = none ∧ WorkDone i s t) := by
  cases i with
  | ret =>
    simp only [exec, execRet] at h
    split at h <;> cases h
    next hsp => exact .inr ⟨if_neg (by omega), hsp, rfl⟩
    next hsp => exact .inl ⟨_, _, if_pos (by omega), rfl⟩
  | callAddr nnn =>
    simp only [exec, execCallAddr] at h
    split at h <;> cases h
    next hsp => exact .inr ⟨if_neg (by omega), hsp, rfl⟩
    next hsp => exact .inl ⟨_, _, if_pos (by omega), rfl⟩
  | jpV0 nnn =>
    simp only [exec, execJpV0] at h
    split at h <;> cases h
    next hbeyond => exact .inl ⟨_, _, if_pos hbeyond, rfl⟩
    next hfits => exact .inr ⟨if_neg hfits, by omega, rfl⟩
  | drw x y n =>
    simp only [exec, execDrw] at h
    split at h <;> cases h
    next hn => exact .inl ⟨_, _, if_pos hn, rfl⟩
    next hn => exact checkIndexed_raises_or_works (if_neg hn) fun _ => rfl
  | skp x | sknp x =>
    simp only [exec, execSkp, execSknp] at h
    split at h <;> cases h
    next k hk => exact .inr ⟨if_neg fun hx => by simp [keyOf_eq_none.mpr hx] at hk, k, hk, rfl⟩
    next hk => exact .inl ⟨_, _, if_pos (keyOf_eq_none.mp hk), rfl⟩
  | ldVxK x =>
    simp only [exec, execLdVxK] at h
    split at h <;> cases h
    next k hk => exact .inr ⟨rfl, .inl ⟨k, hk, rfl⟩⟩
    next hk => exact .inr ⟨rfl, .inr ⟨hk, rfl⟩⟩
  | ldB x => cases h; exact checkIndexed_raises_or_works rfl fun hfits => ⟨hfits, rfl⟩
  | ldMemVx x => cases h; exact checkIndexed_raises_or_works rfl fun hfits => ⟨hfits, rfl⟩
  | ldVxMem x => cases h; exact checkIndexed_raises_or_works rfl fun hfits => ⟨hfits, rfl⟩
  | _ => exact .inr ⟨rfl, h⟩

/-- An instruction raises the error the table gives it. -/
theorem exec_of_errorOf_some {i : Instr} {s : State} {k : ErrorKind} {d : Detail} (h : errorOf i s = some (k, d)) :
    exec i s = .next (s.raiseHere k d) := by
  obtain ⟨t, ht⟩ := exec_next i s
  rcases exec_cases ht with ⟨k', d', herr, rfl⟩ | ⟨hok, -⟩
  · cases herr.symm.trans h
    exact ht
  · cases hok.symm.trans h

/-- An instruction that the table gives no error does its work. -/
theorem exec_of_errorOf_none {i : Instr} {s : State} (h : errorOf i s = none) :
    ∃ t, exec i s = .next t ∧ WorkDone i s t := by
  obtain ⟨t, ht⟩ := exec_next i s
  rcases exec_cases ht with ⟨k, d, herr, -⟩ | ⟨-, hwork⟩
  · cases herr.symm.trans h
  · exact ⟨t, ht, hwork⟩

/-- The work of an instruction leaves alone what the step returns, and the latch. -/
theorem WorkDone.result_faultLatch {i : Instr} {s t : State} (h : WorkDone i s t) :
    t.result = s.result ∧ t.faultLatch = s.faultLatch := by
  cases i with
  | ret | callAddr => obtain ⟨-, rfl⟩ := h; exact ⟨rfl, rfl⟩
  | jpV0 | ldB | ldMemVx | ldVxMem => obtain ⟨-, rfl⟩ := h; exact ⟨rfl, rfl⟩
  | skp | sknp => obtain ⟨k, -, rfl⟩ := h; exact ⟨rfl, rfl⟩
  | ldVxK => obtain ⟨k, -, rfl⟩ | ⟨-, rfl⟩ := h <;> exact ⟨rfl, rfl⟩
  | _ => cases h; exact ⟨rfl, rfl⟩

/-- Settles O11: `exec_of_errorOf_some` where the table gives an error; where it gives none, the work done leaves what
the step returns and the latch (`WorkDone.result_faultLatch`). -/
theorem instructionRaisesExactlyWhen : Obligations.InstructionRaisesExactlyWhen := by
  unfold Obligations.InstructionRaisesExactlyWhen
  intro i s
  obtain ⟨t, ht⟩ := exec_next i s
  refine ⟨t, ht, fun k d herr => ?_, fun hok => ?_⟩
  · exact Host.Outcome.next.inj (ht.symm.trans (exec_of_errorOf_some herr))
  · obtain ⟨u, hu, hwork⟩ := exec_of_errorOf_none hok
    cases hu.symm.trans ht
    exact hwork.result_faultLatch

end Sys2Proof.Machine
end

section
/-! PROOFS. All that a step can do, and what it returns (spec/40_decode_dispatch.md R58 to R60, 60_exceptions.md R109 to
R113). -/

namespace Sys2Proof.Machine

/-- The two bytes at PC as a word, the one at PC in its high half (20_memory.md R36). -/
def State.wordAtPc (s : State) : Word := s.readByte s.pc.toNat ++ s.readByte (s.pc.toNat + 1)

/-- Settles O6: the fetch succeeds (`State.fetchWord_ok`), and the step goes on as its word decodes. -/
theorem stepRunsDecodedInstruction : Obligations.StepRunsDecodedInstruction := by
  unfold Obligations.StepRunsDecodedInstruction
  intro s hpc
  have hfetch := s.fetchWord_ok hpc
  exact ⟨fun i hi => step_of_decoded hfetch hi, fun e he => step_of_unknown hfetch he⟩

/-- Settles O7: the fetch fails (`State.fetchWord_err`), and the step with it. -/
theorem fetchBeyondMemoryRaises : Obligations.FetchBeyondMemoryRaises := by
  unfold Obligations.FetchBeyondMemoryRaises
  exact fun s hpc => step_of_fetch_error (s.fetchWord_err hpc)

/-- Every step fails to fetch, raises an error later, or does an instruction's work. -/
theorem step_fails_or_works (s : State) :
    (0xFFF < s.pc.toNat + 1 ∧ ∃ a, step s = .next (s.failFetch a)) ∨
    (s.pc.toNat + 1 ≤ 0xFFF ∧ ∃ k d, step s = .next ((s.beginStep s.wordAtPc).raiseHere k d)) ∨
    (s.pc.toNat + 1 ≤ 0xFFF ∧ ∃ i t, step s = .next t ∧ WorkDone i (s.beginStep s.wordAtPc) t) := by
  rcases Nat.lt_or_ge 0xFFF (s.pc.toNat + 1) with hpc | hpc
  · exact .inl ⟨hpc, _, step_of_fetch_error (s.fetchWord_err hpc)⟩
  · have hfetch : s.fetchWord = .ok s.wordAtPc := s.fetchWord_ok hpc
    cases hdecode : decode s.params.rndSupported s.wordAtPc with
    | error e => exact .inr (.inl ⟨hpc, _, _, step_of_unknown hfetch hdecode⟩)
    | ok i =>
      obtain ⟨t, ht⟩ := exec_next i (s.beginStep s.wordAtPc)
      have hstep := (step_of_decoded hfetch hdecode).trans ht
      rcases exec_cases ht with ⟨k, d, -, rfl⟩ | ⟨-, hwork⟩
      · exact .inr (.inl ⟨hpc, k, d, hstep⟩)
      · exact .inr (.inr ⟨hpc, i, t, hstep, hwork⟩)

/-- Settles O8: each of the three ways a step can go leaves a state, with Err or with Ok of the word. -/
theorem stepAlwaysGoesOn : Obligations.StepAlwaysGoesOn := by
  unfold Obligations.StepAlwaysGoesOn
  intro s
  rcases step_fails_or_works s with ⟨-, a, hstep⟩ | ⟨-, k, d, hstep⟩ | ⟨-, i, t, hstep, hwork⟩
  · exact ⟨_, hstep, nofun⟩
  · exact ⟨_, hstep, nofun⟩
  · refine ⟨t, hstep, ?_⟩
    rw [hwork.result_faultLatch.1]
    exact nofun

/-- Settles O9: a step that returns Err failed to fetch or raised later, for one that did its work returned Ok. -/
theorem failedStepChangesOnlyPc : Obligations.FailedStepChangesOnlyPc := by
  unfold Obligations.FailedStepChangesOnlyPc
  intro s t hst herr
  rcases step_fails_or_works s with ⟨hpc, a, hstep⟩ | ⟨hpc, k, d, hstep⟩ | ⟨-, i, u, hstep, hwork⟩ <;>
    cases hstep.symm.trans hst
  · exact ⟨s.sameButPc_failFetch a, rfl, rfl, _, rfl, rfl, .inl ⟨hpc, rfl, rfl⟩⟩
  · exact ⟨s.sameButPc_beginStep_raiseHere _ k d, rfl, rfl, _, rfl, rfl, .inr ⟨hpc, rfl, rfl⟩⟩
  · rw [hwork.result_faultLatch.1] at herr
    cases herr

/-- A tick adds to ACC and writes the timers, and nothing else (R119). -/
theorem tick_frame (elapsed : Nat) (s : State) :
    tick elapsed s = { s with acc := s.acc + elapsed, dt := (tick elapsed s).dt, st := (tick elapsed s).st } := by
  rcases Nat.lt_or_ge s.params.tickNum ((s.acc + elapsed) * s.params.tickDen) with h | h
  · rw [tick_of_crossed h]
  · rw [tick_of_not_crossed h]

/-- Settles O10: a step that fails sets the latch and returns Err, one that does its work keeps the latch and returns
Ok; the other calls do not write it. -/
theorem faultLatchIsSticky : Obligations.FaultLatchIsSticky := by
  unfold Obligations.FaultLatchIsSticky
  refine ⟨fun s t hst => ?_, fun c s t hc ht => ?_⟩
  · rcases step_fails_or_works s with ⟨-, a, hstep⟩ | ⟨-, k, d, hstep⟩ | ⟨-, i, u, hstep, hwork⟩ <;>
      cases hstep.symm.trans hst
    · exact ⟨(Bool.or_true _).symm, nofun⟩
    · exact ⟨(Bool.or_true _).symm, nofun⟩
    · obtain ⟨hresult, hlatch⟩ := hwork.result_faultLatch
      rw [hresult, hlatch]
      exact ⟨(Bool.or_false _).symm, fun _ => rfl⟩
  · cases c with
    | step => exact absurd rfl hc
    | tick elapsed => cases ht; rw [tick_frame]
    | setKey | isSoundActive | readDisplay | readRegisters => cases ht; rfl

end Sys2Proof.Machine
end

section
/-! PROOFS. What every instruction leaves in the registers, in I, in the stack and in memory (spec/10_state.md R17, R18,
R21, R22; 20_memory.md R38). -/

namespace Sys2Proof.Machine

/-! ### The general registers (R17) -/

/-- With no key pressed LD Vx, K waits (45_keyboard_timer.md R104). -/
theorem exec_ldVxK_of_no_key {x : RegIdx} {s : State} (h : ∀ k, s.key k = false) :
    exec (.ldVxK x) s = .next s.rollBack := by
  simp only [exec, execLdVxK, s.firstKey_eq_none.mpr h]

/-- Settles O12: `exec_reg_of_not_written` for every instruction; a waiting LD Vx, K rolls PC back and does no more. -/
theorem registersWrittenByEachInstruction : Obligations.RegistersWrittenByEachInstruction := by
  unfold Obligations.RegistersWrittenByEachInstruction
  intro i s
  obtain ⟨t, ht⟩ := exec_next i s
  refine ⟨t, ht, fun r hdest hflag => exec_reg_of_not_written ht hdest fun hwriter => ?_, ?_⟩
  · simpa [hwriter] using hflag
  · rintro x rfl hkeys
    cases ht.symm.trans (exec_ldVxK_of_no_key hkeys)
    rfl

/-! ### The instructions that write none of I, the stack and memory -/

/-- The instructions that write I, the stack or memory. -/
def writesIndexStackOrMemory : Instr → Bool
  | .ldI _ | .addI _ | .ldF _ | .ldB _ | .ldMemVx _ | .ldVxMem _ | .callAddr _ | .ret => true
  | _ => false

/-- I, the stack with its pointer and memory are in t as in s. -/
structure SameIndexStackMemory (s t : State) : Prop where
  index : t.i = s.i
  stack : t.stack = s.stack
  sp : t.sp = s.sp
  memory : t.mem = s.mem

theorem exec_keeps_index_stack_memory {i : Instr} {s t : State} (h : exec i s = .next t)
    (hplain : writesIndexStackOrMemory i = false) : SameIndexStackMemory s t := by
  rcases exec_cases h with ⟨k, d, -, rfl⟩ | ⟨-, hwork⟩
  · exact ⟨rfl, rfl, rfl, rfl⟩
  · cases i with
    | jpV0 => obtain ⟨-, rfl⟩ := hwork; exact ⟨rfl, rfl, rfl, rfl⟩
    | skp | sknp => obtain ⟨k, -, rfl⟩ := hwork; exact ⟨rfl, rfl, rfl, rfl⟩
    | ldVxK => obtain ⟨k, -, rfl⟩ | ⟨-, rfl⟩ := hwork <;> exact ⟨rfl, rfl, rfl, rfl⟩
    | ldI | addI | ldF | ldB | ldMemVx | ldVxMem | callAddr | ret => cases hplain
    | _ => cases hwork; exact ⟨rfl, rfl, rfl, rfl⟩

/-! ### The index register (R18) -/

/-- The value of I after i ran from s. -/
def indexAfterInstr (i : Instr) (s : State) : Word :=
  match i with
  | .ldI nnn => zext12 nnn
  | .addI x => s.i + zext8 (s.reg x)
  | .ldF x => fontAddress (s.reg x)
  | .ldMemVx x | .ldVxMem x => if s.i.toNat + x.val > 0xFFF then s.i else indexAfter s.i x
  | _ => s.i

theorem exec_i {i : Instr} {s t : State} (h : exec i s = .next t) : t.i = indexAfterInstr i s := by
  cases i with
  | ldMemVx x | ldVxMem x =>
    rcases exec_cases h with ⟨k, d, herr, rfl⟩ | ⟨-, hfits, rfl⟩
    · refine (if_pos ?_).symm
      by_contra hfits
      cases herr.symm.trans (indexedError_eq_none.mpr (show s.i.toNat + (x.val + 1) ≤ 0x1000 by omega))
    · exact (if_neg (by omega)).symm
  | ldI | addI | ldF => cases h; rfl
  | ret | callAddr | ldB => rcases exec_cases h with ⟨k, d, -, rfl⟩ | ⟨-, -, rfl⟩ <;> rfl
  | _ => exact (exec_keeps_index_stack_memory h rfl).index

/-- Settles O14: `exec_i`, each value read as a number. -/
theorem indexRegisterAfterEachInstruction : Obligations.IndexRegisterAfterEachInstruction := by
  unfold Obligations.IndexRegisterAfterEachInstruction
  intro i s
  obtain ⟨t, ht⟩ := exec_next i s
  refine ⟨t, ht, ?_⟩
  rw [exec_i ht]
  cases i with
  | ldI nnn => exact toNat_zext12 nnn
  | addI x => simp [indexAfterInstr]
  | ldF x => exact toNat_fontAddress _
  | ldMemVx x | ldVxMem x => simp only [indexAfterInstr, apply_ite BitVec.toNat, toNat_indexAfter]
  | _ => rfl

/-! ### The stack (R21, R22) -/

/-- CALL raises on a full stack alone. -/
theorem sp_eq_of_errorOf_callAddr {nnn : Addr} {s : State} {e : ErrorKind × Detail}
    (h : errorOf (.callAddr nnn) s = some e) : s.sp.val = 16 := by
  by_contra hsp
  cases h.symm.trans (if_neg hsp)

/-- RET raises on an empty stack alone. -/
theorem sp_eq_of_errorOf_ret {s : State} {e : ErrorKind × Detail} (h : errorOf .ret s = some e) : s.sp.val = 0 := by
  by_contra hsp
  cases h.symm.trans (if_neg hsp)

/-- The stack after i ran from s: CALL writes PC at SP where there is such an entry. -/
def stackAfterInstr (i : Instr) (s : State) : Vector Word 16 :=
  match i with
  | .callAddr _ => s.stack.setIfInBounds s.sp.val s.pc
  | _ => s.stack

theorem exec_stack {i : Instr} {s t : State} (h : exec i s = .next t) : t.stack = stackAfterInstr i s := by
  cases i with
  | callAddr =>
    rcases exec_cases h with ⟨k, d, herr, rfl⟩ | ⟨-, hsp, rfl⟩
    · exact (Vector.setIfInBounds_eq_of_size_le (sp_eq_of_errorOf_callAddr herr).ge).symm
    · apply Vector.ext
      intro j hj
      simp [stackAfterInstr, Vector.getElem_set, Vector.getElem_setIfInBounds]
  | ret | ldB | ldMemVx | ldVxMem => rcases exec_cases h with ⟨k, d, -, rfl⟩ | ⟨-, -, rfl⟩ <;> rfl
  | ldI | addI | ldF => cases h; rfl
  | _ => exact (exec_keeps_index_stack_memory h rfl).stack

/-- SP after i ran from s: CALL adds 1 up to 16, RET takes 1 off down to 0. -/
def spAfterInstr (i : Instr) (s : State) : Nat :=
  match i with
  | .callAddr _ => if s.sp.val = 16 then 16 else s.sp.val + 1
  | .ret => if s.sp.val = 0 then 0 else s.sp.val - 1
  | _ => s.sp.val

theorem exec_sp {i : Instr} {s t : State} (h : exec i s = .next t) : t.sp.val = spAfterInstr i s := by
  cases i with
  | callAddr =>
    rcases exec_cases h with ⟨k, d, herr, rfl⟩ | ⟨-, hsp, rfl⟩
    · have hfull := sp_eq_of_errorOf_callAddr herr
      exact hfull.trans (if_pos hfull).symm
    · exact (if_neg (by omega)).symm
  | ret =>
    rcases exec_cases h with ⟨k, d, herr, rfl⟩ | ⟨-, hsp, rfl⟩
    · have hempty := sp_eq_of_errorOf_ret herr
      exact hempty.trans (if_pos hempty).symm
    · exact (if_neg (by omega)).symm
  | ldB | ldMemVx | ldVxMem => rcases exec_cases h with ⟨k, d, -, rfl⟩ | ⟨-, -, rfl⟩ <;> rfl
  | ldI | addI | ldF => cases h; rfl
  | _ => exact congrArg Fin.val (exec_keeps_index_stack_memory h rfl).sp

/-- Settles O15: `exec_stack` entry by entry, and `exec_sp`. -/
theorem stackWrittenOnlyByCallAndRet : Obligations.StackWrittenOnlyByCallAndRet := by
  unfold Obligations.StackWrittenOnlyByCallAndRet
  intro i s
  obtain ⟨t, ht⟩ := exec_next i s
  refine ⟨t, ht, fun j => ?_, (exec_sp ht).trans (by cases i <;> rfl)⟩
  simp only [exec_stack ht]
  cases i with
  | callAddr => simp only [stackAfterInstr, Vector.getElem_setIfInBounds, eq_comm]
  | _ => rfl

/-! ### Memory (20_memory.md R38) -/

/-- An instruction that is no store leaves memory. -/
theorem exec_mem_of_no_store {i : Instr} {s t : State} (h : exec i s = .next t) (hb : ∀ x, i ≠ .ldB x)
    (hm : ∀ x, i ≠ .ldMemVx x) : t.mem = s.mem := by
  cases i with
  | ldB x => exact absurd rfl (hb x)
  | ldMemVx x => exact absurd rfl (hm x)
  | ret | callAddr | ldVxMem => rcases exec_cases h with ⟨k, d, -, rfl⟩ | ⟨-, -, rfl⟩ <;> rfl
  | ldI | addI | ldF => cases h; rfl
  | _ => exact (exec_keeps_index_stack_memory h rfl).memory

/-- Settles O17: a store leaves what is outside its bytes (`Memory.read_storeBytes_outside`), and raises when they do
not fit. -/
theorem memoryWrittenOnlyByStores : Obligations.MemoryWrittenOnlyByStores := by
  unfold Obligations.MemoryWrittenOnlyByStores
  intro i s
  obtain ⟨t, ht⟩ := exec_next i s
  refine ⟨t, ht, ?_⟩
  cases i with
  | ldB x =>
    rcases exec_cases ht with ⟨k, d, -, rfl⟩ | ⟨-, hfits, rfl⟩
    · exact ⟨fun _ _ => rfl, fun _ => rfl⟩
    · refine ⟨fun a ha => Memory.read_storeBytes_outside _ ?_, fun hbeyond => by omega⟩
      rw [length_decimalDigits]
      omega
  | ldMemVx x =>
    rcases exec_cases ht with ⟨k, d, -, rfl⟩ | ⟨-, hfits, rfl⟩
    · exact ⟨fun _ _ => rfl, fun _ => rfl⟩
    · refine ⟨fun a ha => Memory.read_storeBytes_outside _ ?_, fun hbeyond => by omega⟩
      rw [State.length_regsUpTo]
      omega
  | _ => exact exec_mem_of_no_store ht nofun nofun

end Sys2Proof.Machine
end

section
/-! PROOFS. The invariant: a step keeps it from every state that meets it, and so does every session of host calls
(spec/10_state.md R20, 00_scope.md R9). -/

namespace Sys2Proof.Machine

/-! ### Each part of the invariant under one instruction -/

/-- An instruction keeps memory canonical: a store that completes stores inside the space. -/
theorem exec_keeps_memory_wf {i : Instr} {s t : State} (h : exec i s = .next t) (hwf : s.mem.wf) : t.mem.wf := by
  cases i with
  | ldB x =>
    rcases exec_cases h with ⟨k, d, -, rfl⟩ | ⟨-, hfits, rfl⟩
    · exact hwf
    · exact Memory.wf_storeBytes hwf hfits
  | ldMemVx x =>
    rcases exec_cases h with ⟨k, d, -, rfl⟩ | ⟨-, hfits, rfl⟩
    · exact hwf
    · exact Memory.wf_storeBytes hwf (by rw [State.length_regsUpTo]; exact hfits)
  | _ => rw [exec_mem_of_no_store h nofun nofun]; exact hwf

/-- An advance by 2 does not wrap where PC can be. -/
theorem toNat_advance {w : Word} (h : w.toNat ≤ 0x1000) : (w + 2).toNat = w.toNat + 2 := by
  rw [BitVec.toNat_add]
  exact Nat.mod_eq_of_lt (show w.toNat + 2 < 65536 by omega)

/-- A skip moves PC on by 2 at most. -/
theorem State.toNat_pc_skipIf_le {s : State} (c : Bool) (h : s.pc.toNat ≤ 0x1000) : (s.skipIf c).pc.toNat ≤ 0x1002 := by
  cases c
  · exact h.trans (by decide)
  · show (s.pc + 2).toNat ≤ 0x1002
    rw [toNat_advance h]
    omega

/-- A 12-bit address is in the range of PC. -/
theorem toNat_zext12_le (nnn : Addr) : (zext12 nnn).toNat ≤ 0x1002 := by
  rw [toNat_zext12]
  have := nnn.isLt
  omega

/-- With PC just advanced by 2 and the return addresses in their range, an instruction leaves PC in its range (R20). -/
theorem exec_pcInRange {i : Instr} {s t : State} (h : exec i s = .next t) (hlow : 2 ≤ s.pc.toNat)
    (hhigh : s.pc.toNat ≤ 0x1000) (hstack : s.liveStackInRange) : t.pcInRange := by
  have hkept : s.pc.toNat ≤ 0x1002 := by omega
  rcases exec_cases h with ⟨k, d, -, rfl⟩ | ⟨-, hwork⟩
  · exact hkept
  · cases i with
    | ret =>
      obtain ⟨hsp, rfl⟩ := hwork
      have hentry : (s.stack[s.sp.val - 1]).toNat ≤ 0x1000 :=
        hstack ⟨s.sp.val - 1, by omega⟩ (by show s.sp.val - 1 < s.sp.val; omega)
      exact hentry.trans (by decide)
    | jpAddr nnn => cases hwork; exact toNat_zext12_le nnn
    | callAddr nnn => obtain ⟨-, rfl⟩ := hwork; exact toNat_zext12_le nnn
    | jpV0 nnn =>
      obtain ⟨hfits, rfl⟩ := hwork
      rw [State.pcInRange, State.setPc_pc, BitVec.toNat_ofNat]
      omega
    | seByte | sneByte | seReg | sneReg => cases hwork; exact State.toNat_pc_skipIf_le _ hhigh
    | skp | sknp => obtain ⟨k, -, rfl⟩ := hwork; exact State.toNat_pc_skipIf_le _ hhigh
    | ldVxK =>
      obtain ⟨k, -, rfl⟩ | ⟨-, rfl⟩ := hwork
      · exact hkept
      · rw [State.pcInRange, State.rollBack_pc, BitVec.toNat_sub_of_le (by exact hlow)]
        omega
    | ldB | ldMemVx | ldVxMem => obtain ⟨-, rfl⟩ := hwork; exact hkept
    | _ => cases hwork; exact hkept

/-- An instruction keeps the entries in use in their range: CALL alone adds one, the advanced PC (R20). -/
theorem exec_liveStackInRange {i : Instr} {s t : State} (h : exec i s = .next t) (hpc : s.pc.toNat ≤ 0x1000)
    (hstack : s.liveStackInRange) : t.liveStackInRange := by
  intro j hj
  simp only [exec_stack h]
  rw [exec_sp h] at hj
  cases i with
  | callAddr =>
    simp only [stackAfterInstr, Vector.getElem_setIfInBounds]
    simp only [spAfterInstr] at hj
    split
    · exact hpc
    · exact hstack j (by split at hj <;> omega)
  | ret =>
    simp only [spAfterInstr] at hj
    exact hstack j (by split at hj <;> omega)
  | _ => exact hstack j hj

/-! ### One step -/

/-- Settles O21: a failure keeps what the invariant speaks of, but for PC, which moved on by 2 from 0xFFE at most; an
instruction starts from there, and keeps each part. -/
theorem stepKeepsInvariant : Obligations.StepKeepsInvariant := by
  unfold Obligations.StepKeepsInvariant
  intro s t hinv hst
  rcases Nat.lt_or_ge 0xFFF (s.pc.toNat + 1) with hpc | hpc
  · cases (step_of_fetch_error (s.fetchWord_err hpc)).symm.trans hst
    exact ⟨hinv.mem, hinv.pc, hinv.stack, hinv.params⟩
  · have hadvanced : (s.pc + 2).toNat = s.pc.toNat + 2 := toNat_advance (by omega)
    have hlow : 2 ≤ (s.pc + 2).toNat := by omega
    have hhigh : (s.pc + 2).toNat ≤ 0x1000 := by omega
    rcases step_cases s with ⟨a, hfetch, -⟩ | ⟨w, e, -, -, hstep⟩ | ⟨w, i, -, -, hstep⟩
    · cases hfetch.symm.trans (s.fetchWord_ok hpc)
    · cases hstep.symm.trans hst
      exact ⟨hinv.mem, hhigh.trans (by decide), hinv.stack, hinv.params⟩
    · have hexec := hstep.symm.trans hst
      obtain ⟨-, -, hparams, -⟩ := exec_keeps_inputs hexec
      exact ⟨exec_keeps_memory_wf hexec hinv.mem, exec_pcInRange hexec hlow hhigh hinv.stack,
        exec_liveStackInRange hexec hhigh hinv.stack, hparams ▸ hinv.params⟩

/-! ### Sessions -/

theorem step_keeps_params {s t : State} (h : step s = .next t) : t.params = s.params := by
  rcases step_cases s with ⟨a, -, hstep⟩ | ⟨w, e, -, -, hstep⟩ | ⟨w, i, -, -, hstep⟩
  · cases hstep.symm.trans h
    rfl
  · cases hstep.symm.trans h
    rfl
  · obtain ⟨-, -, hparams, -⟩ := exec_keeps_inputs (hstep.symm.trans h)
    exact hparams

/-- The invariant reads neither ACC nor the timers. -/
theorem State.Inv.tick {s : State} (h : s.Inv) (elapsed : Nat) : (Machine.tick elapsed s).Inv := by
  rw [tick_frame]
  exact ⟨h.mem, h.pc, h.stack, h.params⟩

/-- Every host call goes on, keeps the invariant and keeps the parameters. -/
theorem transact_keeps_inv (c : HostCall) {s : State} (h : s.Inv) :
    ∃ t, transact c s = .next t ∧ t.Inv ∧ t.params = s.params := by
  cases c with
  | step =>
    obtain ⟨t, ht, -⟩ := stepAlwaysGoesOn s
    exact ⟨t, ht, stepKeepsInvariant s t h ht, step_keeps_params ht⟩
  | tick elapsed => exact ⟨_, rfl, h.tick elapsed, by rw [tick_frame]⟩
  | setKey k pressed => exact ⟨_, rfl, ⟨h.mem, h.pc, h.stack, h.params⟩, rfl⟩
  | isSoundActive | readDisplay | readRegisters => exact ⟨s, rfl, h, rfl⟩

/-- Settles O22: by induction on the calls, each of which keeps the invariant (`transact_keeps_inv`). -/
theorem everySessionKeepsInvariant : Obligations.EverySessionKeepsInvariant := by
  unfold Obligations.EverySessionKeepsInvariant
  intro calls
  induction calls with
  | nil => exact fun s h => ⟨s, rfl, h, rfl⟩
  | cons c rest ih =>
    intro s h
    obtain ⟨t, ht, htinv, htparams⟩ := transact_keeps_inv c h
    obtain ⟨u, hu, huinv, huparams⟩ := ih t htinv
    exact ⟨u, (session_cons ht).trans hu, huinv, huparams.trans htparams⟩

end Sys2Proof.Machine
end

section
/-! PROOFS. construct and the reset state (spec/70_reset_and_hazards.md R128 to R130), and that the canonical form of
memory is unique (20_memory.md R30, R31). -/

namespace Sys2Proof.Machine

/-! ### Canonical memories (R30, R31) -/

/-- A canonical memory lists a pair exactly when the address reads as the byte and the byte is not its background. -/
theorem Memory.mem_iff_read {m : Memory} (h : m.wf) (c : Host.Cell) :
    c ∈ m ↔ m.read c.1 = c.2 ∧ c.2 ≠ Memory.background c.1 := by
  obtain ⟨hsorted, hlisted⟩ := h
  constructor
  · exact fun hc => ⟨Memory.read_of_mem hsorted hc, (hlisted c hc).2⟩
  · rintro ⟨hread, hbackground⟩
    by_contra hc
    have hnone : ∀ v, (c.1, v) ∉ m := by
      intro v hv
      obtain rfl : v = c.2 := (Memory.read_of_mem hsorted hv).symm.trans hread
      exact hc hv
    exact hbackground (hread.symm.trans (Memory.read_of_not_mem hnone))

/-- Settles O58: memories that read alike list the same pairs (`Memory.mem_iff_read`), and lists in strictly rising
order with the same members are equal. -/
theorem canonicalMemoryIsUnique : Obligations.CanonicalMemoryIsUnique := by
  unfold Obligations.CanonicalMemoryIsUnique
  intro m m' hm hm' hread
  have hmembers : ∀ c, c ∈ m ↔ c ∈ m' := by
    intro c
    rw [Memory.mem_iff_read hm, Memory.mem_iff_read hm', hread]
  have hasymm : Std.Antisymm fun c d : Host.Cell => c.1 < d.1 := ⟨fun _ _ hcd hdc => absurd hcd hdc.not_gt⟩
  have hirrefl : Std.Irrefl fun c d : Host.Cell => c.1 < d.1 := ⟨fun c => lt_irrefl c.1⟩
  exact hm.1.eq_of_mem_iff hm'.1 hmembers

/-! ### construct -/

/-- What construct leaves for a ROM that fits. -/
theorem construct_ok (font : Vector Byte 80) (params : Config.Params) {rom : List Byte} (h : rom.length ≤ 3584) :
    construct font params rom = .ok { State.reset with
      params := params
      mem := (Memory.storeBytes [] 0 font.toList).storeBytes Config.romOffset rom } := if_neg (not_lt.mpr h)

/-- The memory that holds the FONT alone is canonical. -/
theorem wf_font (font : Vector Byte 80) : (Memory.storeBytes [] 0 font.toList).wf :=
  Memory.wf_storeBytes Memory.wf_nil (by simp [Config.memSize])

/-- Settles O20: the FONT and a ROM of at most 3584 bytes are stored inside the space; PC is 0x200 and the stack
empty. -/
theorem constructMeetsInvariant : Obligations.ConstructMeetsInvariant := by
  unfold Obligations.ConstructMeetsInvariant
  intro font params rom s hparams hs
  rcases Nat.lt_or_ge 3584 rom.length with hlong | hfits
  · cases (if_pos hlong).symm.trans hs
  · cases (construct_ok font params hfits).symm.trans hs
    refine ⟨Memory.wf_storeBytes (wf_font font) ?_, ?_, nofun, hparams⟩
    · simp only [Config.romOffset, Config.memSize]
      omega
    · show (0x200 : Word).toNat ≤ 0x1002
      decide

/-- The default FONT is what unlisted addresses read as, so storing it lists nothing. -/
theorem storeBytes_defaultFont : Memory.storeBytes [] 0 Config.defaultFont.toList = [] := by decide

/-- Settles O54: the default FONT lists nothing (`storeBytes_defaultFont`), an empty ROM stores nothing, and the word at
0x200, where nothing is listed, is 0x0000, which is on the list of unknown words. -/
theorem resetIsConstructOfEmptyRom : Obligations.ResetIsConstructOfEmptyRom := by
  unfold Obligations.ResetIsConstructOfEmptyRom
  refine ⟨?_, _, step_of_unknown (s := State.reset) (w := 0x0000) rfl (e := .unknown 0x0000) rfl, rfl, rfl⟩
  rw [construct_ok _ _ (by decide), storeBytes_defaultFont]
  rfl

/-- Settles O19: the reset state is what construct leaves (`resetIsConstructOfEmptyRom`), which meets the invariant. -/
theorem resetMeetsInvariant : Obligations.ResetMeetsInvariant := by
  unfold Obligations.ResetMeetsInvariant
  exact constructMeetsInvariant _ _ _ _ (by decide) resetIsConstructOfEmptyRom.1

/-- Beyond the default FONT every unlisted address reads as 0. -/
theorem Memory.background_of_le {a : Nat} (h : 80 ≤ a) : Memory.background a = 0 :=
  List.getD_eq_default _ _ h

/-- Settles O53: the ROM's bytes are the last stored, the FONT's are below 0x200, where no byte of the ROM goes, and
what neither reaches reads as the background, 0 from address 80 on. -/
theorem constructLoadsFontAndRom : Obligations.ConstructLoadsFontAndRom := by
  unfold Obligations.ConstructLoadsFontAndRom
  refine fun font params rom => ⟨fun hlong => if_pos hlong, fun hfits => ⟨_, construct_ok font params hfits,
    fun a => ?_, fun k hk => ?_, fun a ha hout => ?_, rfl, rfl, fun r => ?_, rfl, fun j => ?_, fun row col => ?_, fun k => ?_,
    rfl, rfl, rfl, rfl, rfl⟩⟩
  · have hlength : font.toList.length = 80 := Vector.length_toList
    have hread := Memory.read_storeBytes_inside Memory.wf_nil (base := 0) (k := a.val) (bytes := font.toList)
      (by simp [Config.memSize]) (by omega)
    rw [State.readByte, Memory.read_storeBytes_outside _ (.inl (by simp only [Config.romOffset]; omega))]
    simpa using hread
  · exact Memory.read_storeBytes_inside (wf_font font) (by simp only [Config.romOffset, Config.memSize]; omega) hk
  · rw [State.readByte, Memory.read_storeBytes_outside _ (by simp only [Config.romOffset]; omega),
      Memory.read_storeBytes_outside _ (.inr (by simpa using ha))]
    exact Memory.background_of_le ha
  · simp [State.reg, State.reset]
  · simp [State.reset]
  · exact Display.pixel_blank row col
  · simp [State.key, State.reset]

end Sys2Proof.Machine
end

section
/-! PROOFS. Control flow that can raise: RET and CALL with their nesting, JP V0, addr; the skips on registers
(spec/41_control_flow.md R69, R71, R74 to R76; 95_test_vectors.md Q4, Q5). -/

namespace Sys2Proof.Machine

/-! ### RET and CALL (R69, R71) -/

/-- RET on a stack that is not empty. -/
theorem exec_ret_of_pos {s : State} (h : 0 < s.sp.val) : exec .ret s = .next (s.popPc h) := by
  simp only [exec, execRet, dif_pos h]

/-- CALL on a stack that is not full. -/
theorem exec_callAddr_of_lt {s : State} (h : s.sp.val < 16) (nnn : Addr) :
    exec (.callAddr nnn) s = .next ((s.push s.pc h).setPc (zext12 nnn)) := by
  simp only [exec, execCallAddr, dif_pos h]

/-- Settles O24: `exec_ret_of_pos`, and the table's error for an empty stack. -/
theorem retPopsOrUnderflows : Obligations.RetPopsOrUnderflows := by
  unfold Obligations.RetPopsOrUnderflows
  refine fun s => ⟨fun j hj => ?_, fun hempty => exec_of_errorOf_some (if_pos hempty)⟩
  have hsp : s.sp.val - 1 = j.val := by omega
  refine ⟨_, exec_ret_of_pos (by omega), ?_, hsp⟩
  simp only [State.popPc, hsp]

/-- Settles O26: `exec_callAddr_of_lt` with the entry it writes, and the table's error for a full stack. -/
theorem callPushesOrOverflows : Obligations.CallPushesOrOverflows := by
  unfold Obligations.CallPushesOrOverflows
  refine fun nnn s => ⟨fun hsp => ⟨_, exec_callAddr_of_lt hsp nnn, rfl, rfl, toNat_zext12 nnn, fun j => ?_⟩,
    fun hfull => exec_of_errorOf_some (if_pos hfull)⟩
  simp only [State.setPc_stack, State.push_stack, Vector.getElem_set, eq_comm]

/-! ### Nesting (Q4, Q5) -/

/-- A run goes on from the state its first part leaves. -/
theorem runInstrs_append {is js : List Instr} {s t : State} (h : runInstrs is s = .next t) :
    runInstrs (is ++ js) s = runInstrs js t := by
  induction is generalizing s with
  | nil => cases h; rfl
  | cons i rest ih =>
    obtain ⟨u, hu⟩ := exec_next i s
    simp only [List.cons_append, runInstrs, hu] at h ⊢
    exact ih h

/-- A run goes on from the state its first instruction leaves. -/
theorem runInstrs_cons {i : Instr} {is : List Instr} {s t : State} (h : exec i s = .next t) :
    runInstrs (i :: is) s = runInstrs is t := by
  simp only [runInstrs, h]

/-- Calls that fit the stack, then as many returns, bring back all but the entries above those in use. -/
theorem calls_then_returns (targets : List Addr) : ∀ s : State, s.sp.val + targets.length ≤ 16 →
    ∃ t, runInstrs (targets.map .callAddr ++ List.replicate targets.length .ret) s = .next t ∧
      t = { s with stack := t.stack } ∧ ∀ j : Fin 16, j.val < s.sp.val → t.stack[j.val] = s.stack[j.val] := by
  induction targets with
  | nil => exact fun s _ => ⟨s, rfl, rfl, fun _ _ => rfl⟩
  | cons a rest ih =>
    intro s hfits
    simp only [List.length_cons] at hfits ⊢
    have hsp : s.sp.val < 16 := by omega
    obtain ⟨u, hrun, hframe, hlive⟩ := ih ((s.push s.pc hsp).setPc (zext12 a))
      (by simp only [State.setPc_sp, State.push_sp]; omega)
    simp only [State.setPc_sp, State.push_sp, State.setPc_stack, State.push_stack, Vector.getElem_set] at hlive
    generalize u.stack = stack at hframe hlive
    subst hframe
    have htop : stack[s.sp.val] = s.pc := (hlive ⟨s.sp.val, hsp⟩ (Nat.lt_succ_self _)).trans (if_pos rfl)
    refine ⟨{ s with stack := stack }, ?_, rfl, fun j hj => ?_⟩
    · rw [List.replicate_succ', ← List.append_assoc, List.map_cons, List.cons_append, List.cons_append,
        runInstrs_cons (exec_callAddr_of_lt hsp a), runInstrs_append hrun,
        runInstrs_cons (exec_ret_of_pos (Nat.succ_pos s.sp.val))]
      simp [runInstrs, State.popPc, htop]
    · exact (hlive j (by omega)).trans (if_neg (by omega))

/-- Calls that fill the stack, then one more. -/
theorem call_after_filling_calls (a : Addr) (targets : List Addr) : ∀ s : State, s.sp.val + targets.length = 16 →
    ∃ t, runInstrs (targets.map .callAddr ++ [.callAddr a]) s = .next t ∧ t.sp.val = 16 ∧
      t.result = .err { kind := .stackOverflow, pc := s.instrPc, opcode := some s.opcode, detail := .empty } := by
  induction targets with
  | nil =>
    intro s hfull
    have hraise : exec (.callAddr a) s = .next (s.raiseHere .stackOverflow .empty) :=
      exec_of_errorOf_some (if_pos hfull)
    exact ⟨_, runInstrs_cons hraise, hfull, rfl⟩
  | cons b rest ih =>
    intro s hfull
    simp only [List.length_cons] at hfull
    have hsp : s.sp.val < 16 := by omega
    obtain ⟨t, hrun, htsp, hresult⟩ := ih ((s.push s.pc hsp).setPc (zext12 b))
      (by simp only [State.setPc_sp, State.push_sp]; omega)
    exact ⟨t, (runInstrs_cons (exec_callAddr_of_lt hsp b)).trans hrun, htsp, hresult⟩

/-- Settles O27: `calls_then_returns` and `call_after_filling_calls`, both by induction on the calls. -/
theorem nestedCallsReturn : Obligations.NestedCallsReturn := by
  unfold Obligations.NestedCallsReturn
  exact fun targets s => ⟨calls_then_returns targets s, fun a => call_after_filling_calls a targets s⟩

/-! ### The skips on registers and JP V0, addr (R74 to R76) -/

/-- Settles O29: SE skips on equality (`State.skipIf_beq`), SNE on inequality (`State.skipIf_bne`). -/
theorem skipsOnRegisters : Obligations.SkipsOnRegisters := by
  unfold Obligations.SkipsOnRegisters
  exact fun x y s => ⟨congrArg Host.Outcome.next (s.skipIf_beq _ _), congrArg Host.Outcome.next (s.skipIf_bne _ _)⟩

/-- Settles O30: a target of at most 0xFFF fits PC; beyond it the table gives the error. -/
theorem jumpWithOffset : Obligations.JumpWithOffset := by
  unfold Obligations.JumpWithOffset
  refine fun nnn s => ⟨fun hfits => ?_, fun hbeyond => exec_of_errorOf_some (if_pos hbeyond)⟩
  obtain ⟨t, ht, -, rfl⟩ := exec_of_errorOf_none (i := .jpV0 nnn) (if_neg (not_lt.mpr hfits))
  refine ⟨_, ht, rfl, ?_⟩
  rw [State.setPc_pc, BitVec.toNat_ofNat, offsetTarget]
  omega

end Sys2Proof.Machine
end

section
/-! PROOFS. RND, ADD I and LD F (spec/42_alu.md R90, 43_memory_index.md R92, R96). -/

namespace Sys2Proof.Machine

/-- Settles O36: one register write, of the byte and-ed with kk, so with 0 wherever kk has 0. -/
theorem randomByteIsMasked : Obligations.RandomByteIsMasked := by
  unfold Obligations.RandomByteIsMasked
  intro x kk s
  have hvalue : (s.setReg x (Config.randomByte s.draws &&& kk)).reg x = Config.randomByte s.draws &&& kk :=
    State.reg_setReg_self ..
  refine ⟨_, rfl, rfl, hvalue, fun k hk => ?_, fun r hr => State.reg_setReg_ne s _ hr⟩
  refine (congrArg (fun b : Byte => b.getLsbD k) hvalue).trans ?_
  rw [BitVec.getLsbD_and, hk, Bool.and_false]

/-- Settles O37: one write of I each; a byte is zero-extended (`toNat_zext8`), and 5 times a byte fits
(`toNat_fontAddress`). -/
theorem indexAddAndFontAddress : Obligations.IndexAddAndFontAddress := by
  unfold Obligations.IndexAddAndFontAddress
  refine fun x s => ⟨⟨_, rfl, rfl, ?_⟩, ⟨_, rfl, rfl, toNat_fontAddress _⟩⟩
  rw [State.setI_i, BitVec.toNat_add, toNat_zext8]

end Sys2Proof.Machine
end

section
/-! PROOFS. The keyboard: the skips on a key and the key wait (spec/45_keyboard_timer.md R102 to R104). -/

namespace Sys2Proof.Machine

/-- Settles O46: a value up to 15 names its key (`keyOf_eq_some`); above it the table gives the error. -/
theorem keySkips : Obligations.KeySkips := by
  unfold Obligations.KeySkips
  refine fun x s => ⟨fun k hk => ?_, fun hbeyond =>
    ⟨exec_of_errorOf_some (if_pos hbeyond), exec_of_errorOf_some (if_pos hbeyond)⟩⟩
  have hkey : keyOf (s.reg x) = some k := by
    rw [keyOf_eq_some (hk ▸ k.isLt)]
    exact congrArg some (Fin.ext hk)
  refine ⟨?_, ?_⟩
  · simp only [exec, execSkp, hkey, State.skipIf]
  · simp only [exec, execSknp, hkey, State.skipIf, Bool.not_eq_true', ← Bool.not_eq_true, ite_not]

/-- Settles O47: the scan finds the lowest pressed key (`State.firstKey_eq_some`), or none. -/
theorem keyWaitTakesLowestOrRollsBack : Obligations.KeyWaitTakesLowestOrRollsBack := by
  unfold Obligations.KeyWaitTakesLowestOrRollsBack
  refine fun x s => ⟨fun k hk hlowest => ⟨s.setReg x (BitVec.ofNat 8 k.val), ?_, rfl, ?_, fun r =>
    State.reg_setReg_ne s _⟩, exec_ldVxK_of_no_key⟩
  · simp only [exec, execLdVxK, (s.firstKey_eq_some k).mpr ⟨hk, hlowest⟩]
  · rw [State.reg_setReg_self, BitVec.toNat_ofNat]
    exact Nat.mod_eq_of_lt (by omega)

end Sys2Proof.Machine
end

section
/-! PROOFS. The host's calls: the tick and its accumulator, set_key and the readers (spec/60_exceptions.md R119, R120,
R123 to R125). -/

namespace Sys2Proof.Machine

/-- Settles O49: the two sides of the threshold (`tick_of_crossed`, `tick_of_not_crossed`); at 50/3, above it is from 17
on. -/
theorem tickCountsDownAboveThreshold : Obligations.TickCountsDownAboveThreshold := by
  unfold Obligations.TickCountsDownAboveThreshold
  refine fun elapsed s => ⟨_, rfl, tick_frame elapsed s, fun hcrossed => ?_, fun hbelow => ?_, fun hdefault => ?_⟩
  · rw [tick_of_crossed hcrossed]
    exact ⟨toNat_countDown s.dt, toNat_countDown s.st⟩
  · rw [tick_of_not_crossed hbelow]
    exact ⟨rfl, rfl⟩
  · rw [hdefault]
    simp only [Config.Params.default]
    omega

/-- Settles O50: by induction on the ticks; ACC only grows, so it stays above the threshold and each tick counts. -/
theorem ticksAfterCrossingAlwaysCount : Obligations.TicksAfterCrossingAlwaysCount := by
  unfold Obligations.TicksAfterCrossingAlwaysCount
  intro ticks
  induction ticks with
  | nil => exact fun s _ => ⟨s, rfl, rfl, rfl, rfl⟩
  | cons elapsed rest ih =>
    intro s habove
    have hcrossed : (s.acc + elapsed) * s.params.tickDen > s.params.tickNum :=
      lt_of_lt_of_le habove (Nat.mul_le_mul_right _ (Nat.le_add_right ..))
    obtain ⟨t, ht, hframe, hdt, hst⟩ :=
      ih { s with acc := s.acc + elapsed, dt := countDown s.dt, st := countDown s.st } hcrossed
    refine ⟨t, ?_, ?_, ?_, ?_⟩
    · rw [List.map_cons, session_cons rfl, tick_of_crossed hcrossed]
      exact ht
    · rw [List.sum_cons, ← Nat.add_assoc]
      exact hframe
    · rw [hdt, toNat_countDown, List.length_cons]
      omega
    · rw [hst, toNat_countDown, List.length_cons]
      omega

/-- A key after set_key. -/
theorem key_setKey (k j : Fin 16) (pressed : Bool) (s : State) :
    (setKey k pressed s).key j = if k.val = j.val then pressed else s.key j := by
  simp only [State.key, setKey, Vector.getElem_set]

/-- Settles O52: set_key writes one key (`key_setKey`); the readers leave the state and answer from it. -/
theorem keySetterAndReaders : Obligations.KeySetterAndReaders := by
  unfold Obligations.KeySetterAndReaders
  refine fun k pressed s => ⟨⟨setKey k pressed s, rfl, rfl, ?_, fun j hj => ?_, rfl⟩, rfl, rfl, rfl, rfl⟩
  · rw [key_setKey, if_pos rfl]
  · rw [key_setKey, if_neg fun h => hj (Fin.ext h.symm)]

end Sys2Proof.Machine
end

section
/-! PROOFS. The stores and the bulk load (spec/43_memory_index.md R93 to R95, 20_memory.md R44; 95_test_vectors.md
Q6). -/

namespace Sys2Proof.Machine

/-! ### What the three accesses leave when they fit, and the error when they do not -/

/-- LD B with its three bytes inside the space. -/
theorem exec_ldB_of_fits {s : State} (x : RegIdx) (h : s.i.toNat + 2 ≤ 0xFFF) :
    exec (.ldB x) s = .next { s with mem := s.mem.storeBytes s.i.toNat (decimalDigits (s.reg x)) } :=
  congrArg Host.Outcome.next (s.checkIndexed_ok _ (by omega))

/-- LD [I], Vx with its bytes inside the space. -/
theorem exec_ldMemVx_of_fits {s : State} {x : RegIdx} (h : s.i.toNat + x.val ≤ 0xFFF) :
    exec (.ldMemVx x) s =
      .next { s with mem := s.mem.storeBytes s.i.toNat (s.regsUpTo x), i := indexAfter s.i x } :=
  congrArg Host.Outcome.next (s.checkIndexed_ok _ (by omega))

/-- LD Vx, [I] with its bytes inside the space. -/
theorem exec_ldVxMem_of_fits {s : State} {x : RegIdx} (h : s.i.toNat + x.val ≤ 0xFFF) :
    exec (.ldVxMem x) s = .next { s with v := s.loadRegs x, i := indexAfter s.i x } :=
  congrArg Host.Outcome.next (s.checkIndexed_ok _ (by omega))

/-- An instruction whose error is that of an access raises it when the access does not fit. -/
theorem exec_of_access_beyond {i : Instr} {s : State} {count : Nat} (htable : errorOf i s = indexedError s count)
    (h : 0x1000 < s.i.toNat + count) :
    exec i s = .next (s.raiseHere .outOfBoundsAccess (.address (max s.i.toNat 0x1000))) :=
  exec_of_errorOf_some (htable.trans (indexedError_of_lt h))

/-! ### LD B (R93) -/

/-- The digits are below 10, so each fits its byte. -/
theorem toNat_decimalDigits (b : Byte) :
    (decimalDigits b).map BitVec.toNat = [b.toNat / 100, b.toNat / 10 % 10, b.toNat % 10] := by
  have hb : b.toNat < 256 := b.isLt
  have hhundreds : b.toNat / 100 % 2 ^ 8 = b.toNat / 100 := Nat.mod_eq_of_lt (by omega)
  have htens : b.toNat / 10 % 10 % 2 ^ 8 = b.toNat / 10 % 10 := Nat.mod_eq_of_lt (by omega)
  have hones : b.toNat % 10 % 2 ^ 8 = b.toNat % 10 := Nat.mod_eq_of_lt (by omega)
  simp only [decimalDigits, List.map_cons, List.map_nil, BitVec.toNat_ofNat, hhundreds, htens, hones]

/-- Settles O38: the digits are read back where they were stored (`Memory.read_storeBytes_inside`), and are the decimal
digits (`toNat_decimalDigits`). -/
theorem decimalDigitsAreStored : Obligations.DecimalDigitsAreStored := by
  unfold Obligations.DecimalDigitsAreStored
  refine fun x s hwf => ⟨fun hfits => ?_, fun hbeyond => exec_of_access_beyond (count := 3) rfl (by omega)⟩
  have hspace : s.i.toNat + (decimalDigits (s.reg x)).length ≤ Config.memSize := by
    simp only [length_decimalDigits, Config.memSize]
    omega
  have hdigit : ∀ k, (hk : k < 3) →
      ((s.mem.storeBytes s.i.toNat (decimalDigits (s.reg x))).read (s.i.toNat + k)).toNat =
        [(s.reg x).toNat / 100, (s.reg x).toNat / 10 % 10, (s.reg x).toNat % 10][k] := by
    intro k hk
    rw [Memory.read_storeBytes_inside hwf hspace hk]
    simp only [← toNat_decimalDigits]
    exact (List.getElem_map ..).symm
  exact ⟨_, exec_ldB_of_fits x hfits, rfl, Memory.wf_storeBytes hwf hspace, hdigit 0 (by decide), hdigit 1 (by decide),
    hdigit 2 (by decide), fun a ha => Memory.read_storeBytes_outside _ (by rw [length_decimalDigits]; omega)⟩

/-! ### The bulk forms (R94, R95) -/

/-- Vr is read back at base + r from the memory V0..Vx were stored in. -/
theorem read_storeBytes_regsUpTo {s : State} {x r : RegIdx} (hwf : s.mem.wf) (hfits : s.i.toNat + x.val ≤ 0xFFF)
    (hr : r ≤ x) : (s.mem.storeBytes s.i.toNat (s.regsUpTo x)).read (s.i.toNat + r.val) = s.reg r := by
  have hlength : (s.regsUpTo x).length = x.val + 1 := s.length_regsUpTo x
  have hrx : r.val ≤ x.val := hr
  rw [Memory.read_storeBytes_inside hwf (by rw [hlength, Config.memSize]; omega) (by omega),
    s.getElem_regsUpTo x r.val (by omega) r.isLt]

/-- An address outside I..I+x reads as before V0..Vx were stored. -/
theorem read_storeBytes_regsUpTo_outside {s : State} {x : RegIdx} {a : Nat}
    (h : a < s.i.toNat ∨ s.i.toNat + x.val < a) :
    (s.mem.storeBytes s.i.toNat (s.regsUpTo x)).read a = s.mem.read a :=
  Memory.read_storeBytes_outside _ (by rw [State.length_regsUpTo]; omega)

/-- Settles O39: the registers are read back where they were stored (`read_storeBytes_regsUpTo`), every other byte as
before. -/
theorem bulkStoreWritesRegisters : Obligations.BulkStoreWritesRegisters := by
  unfold Obligations.BulkStoreWritesRegisters
  refine fun x s hwf => ⟨fun hfits => ?_, fun hbeyond => exec_of_access_beyond (count := x.val + 1) rfl (by omega)⟩
  refine ⟨_, exec_ldMemVx_of_fits hfits, rfl, Memory.wf_storeBytes hwf ?_, toNat_indexAfter s.i x,
    fun r => read_storeBytes_regsUpTo hwf hfits, fun a => read_storeBytes_regsUpTo_outside⟩
  rw [State.length_regsUpTo, Config.memSize]
  omega

/-- The registers after a bulk load. -/
theorem reg_loadRegs (s : State) (x r : RegIdx) (w : Word) : ({ s with v := s.loadRegs x, i := w } : State).reg r =
    if r ≤ x then s.readByte (s.i.toNat + r.val) else s.reg r := by
  simp only [State.reg, State.loadRegs, Vector.getElem_ofFn]
  rfl

/-- Settles O40: each register is the byte loaded into it, or as it was (`reg_loadRegs`). -/
theorem bulkLoadReadsRegisters : Obligations.BulkLoadReadsRegisters := by
  unfold Obligations.BulkLoadReadsRegisters
  exact fun x s => ⟨fun hfits =>
      ⟨_, exec_ldVxMem_of_fits hfits, rfl, toNat_indexAfter s.i x, fun r => reg_loadRegs s x r _⟩,
    fun hbeyond => exec_of_access_beyond (count := x.val + 1) rfl (by omega)⟩

/-- A bulk load that fits leaves the byte at I + r in Vr. -/
theorem exec_ldVxMem_reg {s : State} {x : RegIdx} (h : s.i.toNat + x.val ≤ 0xFFF) :
    ∃ q, exec (.ldVxMem x) s = .next q ∧ q.i = indexAfter s.i x ∧
      ∀ r : RegIdx, r ≤ x → q.reg r = s.readByte (s.i.toNat + r.val) :=
  ⟨_, exec_ldVxMem_of_fits h, rfl, fun r hr => (reg_loadRegs s x r _).trans (if_pos hr)⟩

/-- Settles O41: with I put back the load reads the stored bytes; without it, it starts x + 1 further on, beyond what
was stored. -/
theorem bulkStoreThenLoad : Obligations.BulkStoreThenLoad := by
  unfold Obligations.BulkStoreThenLoad
  intro x s hwf hfits
  refine ⟨_, exec_ldMemVx_of_fits hfits, fun u hmem hi => ?_, fun hroom => ?_⟩
  · obtain ⟨q, hq, -, hreg⟩ := exec_ldVxMem_reg (s := u) (x := x) (by rw [hi]; exact hfits)
    refine ⟨q, hq, fun r hr => ?_⟩
    rw [hreg r hr, State.readByte, hmem, hi]
    exact read_storeBytes_regsUpTo hwf hfits hr
  · have hnext : (indexAfter s.i x).toNat = s.i.toNat + x.val + 1 := by
      rw [toNat_indexAfter]
      omega
    obtain ⟨q, hq, hqi, hreg⟩ := exec_ldVxMem_reg (x := x)
      (s := { s with mem := s.mem.storeBytes s.i.toNat (s.regsUpTo x), i := indexAfter s.i x })
      (by simp only [hnext]; omega)
    refine ⟨q, hq, ?_, fun r hr => ?_⟩
    · rw [hqi, toNat_indexAfter]
      simp only [hnext]
      omega
    · rw [hreg r hr]
      simp only [State.readByte, hnext]
      exact read_storeBytes_regsUpTo_outside (by omega)

/-- Settles O42: a fetch reads the two bytes at PC (`State.fetchWord_ok`), which are the two registers stored there. -/
theorem storeIsSeenByFetch : Obligations.StoreIsSeenByFetch := by
  unfold Obligations.StoreIsSeenByFetch
  intro x k k' s hwf hfits hk' hle
  have hk'x : k'.val ≤ x.val := hle
  refine ⟨_, exec_ldMemVx_of_fits hfits, fun u hmem hpc => ?_⟩
  have hlow : u.readByte u.pc.toNat = s.reg k := by
    rw [State.readByte, hmem, hpc]
    exact read_storeBytes_regsUpTo hwf hfits (by show k.val ≤ x.val; omega)
  have hhigh : u.readByte (u.pc.toNat + 1) = s.reg k' := by
    rw [State.readByte, hmem, hpc, Nat.add_assoc, ← hk']
    exact read_storeBytes_regsUpTo hwf hfits hle
  rw [u.fetchWord_ok (by omega), hlow, hhigh]

end Sys2Proof.Machine
end

section
/-! PROOFS. The draw: the display and the flag after it, its two errors, and drawing twice (spec/44_draw.md R97 to
R100). -/

namespace Sys2Proof.Machine

/-! ### The sprite (R97) -/

/-- A sprite's row as it was loaded; beyond its rows there is no bit. -/
theorem getD_loadBytes (m : Memory) (base count k : Nat) :
    (m.loadBytes base count).getD k 0 = if k < count then m.read (base + k) else 0 := by
  split
  next hk =>
    have hlength : k < (m.loadBytes base count).length := by rwa [Memory.length_loadBytes]
    rw [List.getD_eq_getElem _ _ hlength, Memory.getElem_loadBytes]
  next hk => exact List.getD_eq_default _ _ (by rw [Memory.length_loadBytes]; omega)

/-- The column of the sprite, counted from its left edge, that falls on a column of the display. -/
def State.spriteColumnOf (s : State) (x : RegIdx) (col : Fin 64) : Nat := (col.val + 64 - spriteColumn (s.reg x)) % 64

/-- The row of the sprite, counted from its upper edge, that falls on a row of the display. -/
def State.spriteRowOf (s : State) (y : RegIdx) (row : Fin 32) : Nat := (row.val + 32 - spriteRow (s.reg y)) % 32

/-- The bytes DRW reads. -/
def State.spriteBytes (s : State) (n : Fin 16) : List Byte := s.mem.loadBytes s.i.toNat n.val

/-- The sprite's bit on a pixel, read from the bytes loaded. -/
theorem spriteBitAt_eq (s : State) (x y : RegIdx) (n : Fin 16) (row : Fin 32) (col : Fin 64) :
    spriteBitAt s x y n row col = (decide (s.spriteColumnOf x col < 8) &&
      spriteBit ((s.spriteBytes n).getD (s.spriteRowOf y row) 0) (s.spriteColumnOf x col)) := by
  rw [State.spriteBytes, getD_loadBytes]
  show (decide (s.spriteRowOf y row < n.val) && decide (s.spriteColumnOf x col < 8) &&
    spriteBit (s.readByte (s.i.toNat + s.spriteRowOf y row)) (s.spriteColumnOf x col)) = _
  by_cases hrow : s.spriteRowOf y row < n.val
  · rw [if_pos hrow, decide_eq_true hrow, Bool.true_and]
    rfl
  · rw [if_neg hrow, decide_eq_false hrow, Bool.false_and, Bool.false_and, spriteBit, BitVec.ofNat_eq_ofNat,
      BitVec.getLsbD_zero, Bool.and_false]

/-! ### The display and the flag after a draw (R97, R99) -/

/-- The display and the collision flag of a draw. -/
def State.drawn (s : State) (x y : RegIdx) (n : Fin 16) : Display × Bool :=
  drawSprite s.disp (spriteColumn (s.reg x)) (spriteRow (s.reg y)) (s.spriteBytes n)

/-- What the loops of R97 do for the sprite of a DRW. -/
theorem drawn_spec (s : State) (x y : RegIdx) (n : Fin 16) :
    (∀ row col, (s.drawn x y n).1.pixel row col = (s.disp.pixel row col ^^
      (decide (0 ≤ s.spriteRowOf y row) && decide (s.spriteColumnOf x col < 8) &&
        spriteBit ((s.spriteBytes n).getD (s.spriteRowOf y row - 0) 0) (s.spriteColumnOf x col)))) ∧
    ((s.drawn x y n).2 = true ↔ false = true ∨ ∃ k c, k < (s.spriteBytes n).length ∧ c < 8 ∧
      spriteBit ((s.spriteBytes n).getD k 0) c = true ∧
      s.disp.pixel (wrapRow (spriteRow (s.reg y)) (0 + k)) (wrapCol (spriteColumn (s.reg x)) c) = true) :=
  drawRows_spec _ _ (Nat.mod_lt _ (by decide)) (Nat.mod_lt _ (by decide)) _ 0
    (by rw [State.spriteBytes, Memory.length_loadBytes]; omega) _

/-- Every pixel is XORed with the sprite's bit on it. -/
theorem pixel_drawn (s : State) (x y : RegIdx) (n : Fin 16) (row : Fin 32) (col : Fin 64) :
    (s.drawn x y n).1.pixel row col = (s.disp.pixel row col ^^ spriteBitAt s x y n row col) := by
  rw [(drawn_spec s x y n).1, spriteBitAt_eq, decide_eq_true (Nat.zero_le _), Bool.true_and, Nat.sub_zero]

/-- A pixel's place in the sprite, from its place on the display (R97: rows modulo 32). -/
theorem spriteRowOf_wrapRow (s : State) (y : RegIdx) {k : Nat} (hk : k < 32) :
    s.spriteRowOf y (wrapRow (spriteRow (s.reg y)) k) = k := by
  simp only [State.spriteRowOf, wrapRow, spriteRow]
  omega

theorem wrapRow_spriteRowOf (s : State) (y : RegIdx) (row : Fin 32) :
    wrapRow (spriteRow (s.reg y)) (s.spriteRowOf y row) = row := by
  apply Fin.ext
  simp only [State.spriteRowOf, wrapRow, spriteRow]
  omega

/-- A pixel's place in the sprite, from its place on the display (R97: columns modulo 64). -/
theorem spriteColumnOf_wrapCol (s : State) (x : RegIdx) {c : Nat} (hc : c < 64) :
    s.spriteColumnOf x (wrapCol (spriteColumn (s.reg x)) c) = c := by
  simp only [State.spriteColumnOf, wrapCol, spriteColumn]
  omega

theorem wrapCol_spriteColumnOf (s : State) (x : RegIdx) (col : Fin 64) :
    wrapCol (spriteColumn (s.reg x)) (s.spriteColumnOf x col) = col := by
  apply Fin.ext
  simp only [State.spriteColumnOf, wrapCol, spriteColumn]
  omega

/-- The flag is set exactly when a 1 of the sprite fell on a 1 of the display. -/
theorem collision_drawn_iff (s : State) (x y : RegIdx) (n : Fin 16) : (s.drawn x y n).2 = true ↔
    ∃ row col, s.disp.pixel row col = true ∧ spriteBitAt s x y n row col = true := by
  simp only [(drawn_spec s x y n).2, Bool.false_eq_true, false_or, Nat.zero_add, spriteBitAt_eq, Bool.and_eq_true,
    decide_eq_true_eq]
  constructor
  · rintro ⟨k, c, hk, hc, hbit, hpixel⟩
    have hk32 : k < 32 := by
      rw [State.spriteBytes, Memory.length_loadBytes] at hk
      omega
    refine ⟨_, _, hpixel, ?_⟩
    rw [spriteRowOf_wrapRow s y hk32, spriteColumnOf_wrapCol s x (by omega)]
    exact ⟨hc, hbit⟩
  · rintro ⟨row, col, hpixel, hc, hbit⟩
    refine ⟨s.spriteRowOf y row, s.spriteColumnOf x col, ?_, hc, hbit, ?_⟩
    · by_contra hrow
      rw [List.getD_eq_default _ _ (not_lt.mp hrow)] at hbit
      simp [spriteBit] at hbit
    · rwa [wrapRow_spriteRowOf, wrapCol_spriteColumnOf]

theorem blit_disp (s : State) (x y : RegIdx) (n : Fin 16) : (s.blit x y n).disp = (s.drawn x y n).1 := rfl

/-- VF after a draw is 1 exactly when some pixel went from 1 to 0. -/
theorem flag_blit_eq_one_iff (s : State) (x y : RegIdx) (n : Fin 16) : (s.blit x y n).reg 15 = 1 ↔
    ∃ row col, s.disp.pixel row col = true ∧ spriteBitAt s x y n row col = true := by
  have hflag : (s.blit x y n).reg 15 = flagByte (s.drawn x y n).2 := State.reg_setReg_self ..
  rw [hflag, ← collision_drawn_iff]
  cases (s.drawn x y n).2 <;> decide

/-- DRW with a row to draw and its bytes inside the space. -/
theorem exec_drw_of_fits {s : State} {n : Fin 16} (x y : RegIdx) (hn : 0 < n.val) (h : s.i.toNat + n.val - 1 ≤ 0xFFF) :
    exec (.drw x y n) s = .next (s.blit x y n) := by
  simp only [exec, execDrw]
  rw [if_neg (by omega), s.checkIndexed_ok _ h]

/-- Settles O43: the display is XORed with the sprite (`pixel_drawn`), and VF is the collision
(`flag_blit_eq_one_iff`), 0 where it is not 1. -/
theorem drawXorsTheSprite : Obligations.DrawXorsTheSprite := by
  unfold Obligations.DrawXorsTheSprite
  refine fun x y n s hn hfits => ⟨_, exec_drw_of_fits x y hn hfits, s.blit_frame x y n, pixel_drawn s x y n,
    (flag_blit_eq_one_iff s x y n).mpr, fun hapart => ?_, fun r => State.reg_setReg_ne _ _⟩
  obtain ⟨f, hreg⟩ := s.reg_blit x y n
  rcases flagByte_eq_zero_or_one f with hzero | hone
  · exact (hreg 15).trans hzero
  · obtain ⟨row, col, hpixel, hbit⟩ := (flag_blit_eq_one_iff s x y n).mp ((hreg 15).trans hone)
    cases hbit.symm.trans (hapart row col hpixel)

/-! ### The errors of DRW (R97, R98) -/

/-- Settles O44: the table's errors for DRW, Unmodelled first. -/
theorem drawRaisesInOrder : Obligations.DrawRaisesInOrder := by
  unfold Obligations.DrawRaisesInOrder
  exact fun x y n s => ⟨fun hn => exec_of_errorOf_some (if_pos hn), fun hn hbeyond =>
    exec_of_access_beyond (count := n.val) (if_neg (by omega)) (by omega)⟩

/-! ### Drawing twice (R100) -/

/-- The sprite's bit on a pixel is read from memory at I and from the coordinates alone. -/
theorem spriteBitAt_congr {s u : State} {x y x' y' : RegIdx} (hmem : u.mem = s.mem) (hi : u.i = s.i)
    (hx : (u.reg x').toNat % 64 = (s.reg x).toNat % 64) (hy : (u.reg y').toNat % 32 = (s.reg y).toNat % 32)
    (n : Fin 16) (row : Fin 32) (col : Fin 64) : spriteBitAt u x' y' n row col = spriteBitAt s x y n row col := by
  simp only [spriteBitAt, State.readByte, hmem, hi, hx, hy]

/-- Settles O45: the second draw XORs each pixel with the same bit again; it collides where the bit is 1 and the pixel
the first draw left is 1, so was 0 before it. -/
theorem drawingTwiceRestoresTheDisplay : Obligations.DrawingTwiceRestoresTheDisplay := by
  unfold Obligations.DrawingTwiceRestoresTheDisplay
  refine fun x y x' y' n s hn hfits => ⟨_, exec_drw_of_fits x y hn hfits, fun u hdisp hmem hi hx hy => ?_⟩
  have hbit := spriteBitAt_congr hmem hi hx hy n
  have hpixel : ∀ row col, u.disp.pixel row col = (s.disp.pixel row col ^^ spriteBitAt s x y n row col) := by
    intro row col
    rw [hdisp, blit_disp, pixel_drawn]
  refine ⟨_, exec_drw_of_fits x' y' hn (by rw [hi]; exact hfits), Display.ext_pixel fun row col => ?_, ?_⟩
  · rw [blit_disp, pixel_drawn, hpixel, hbit, Bool.xor_assoc, Bool.xor_self, Bool.xor_false]
  · simp only [flag_blit_eq_one_iff, hpixel, hbit]
    refine exists_congr fun row => exists_congr fun col => and_congr_left fun hone => ?_
    rw [hone, Bool.xor_true, Bool.not_eq_true']

end Sys2Proof.Machine
end

section
/-! PROOFS. What a step cannot see: ACC, the latch and the dead entries of the stack (spec/10_state.md R21, R26;
60_exceptions.md R111). -/

namespace Sys2Proof.Machine

/-! ### States that look alike to every instruction -/

/-- s' is s but for ACC, the latch and the stack, whose entries in use it shares. -/
structure State.Alike (s s' : State) : Prop where
  frame : ∃ a latch stack, s' = { s with acc := a, faultLatch := latch, stack := stack }
  live : ∀ j : Fin 16, j.val < s.sp.val → s'.stack[j.val] = s.stack[j.val]

/-- The table gives alike states the same errors. -/
theorem State.Alike.errorOf_eq {s s' : State} (h : s.Alike s') (i : Instr) : errorOf i s' = errorOf i s := by
  obtain ⟨a, latch, stack, rfl⟩ := h.frame
  cases i <;> rfl

/-- Alike states stay alike when the same error is raised in both. -/
theorem State.Alike.raiseHere {s s' : State} (h : s.Alike s') (k : ErrorKind) (d : Detail) :
    (s.raiseHere k d).Alike (s'.raiseHere k d) := by
  obtain ⟨⟨a, latch, stack, rfl⟩, hlive⟩ := h
  exact ⟨⟨a, true, stack, rfl⟩, hlive⟩

/-- An instruction's work on alike states leaves alike states: RET reads an entry in use, CALL writes the same one. -/
theorem State.Alike.workDone {i : Instr} {s s' t t' : State} (h : s.Alike s') (hwork : WorkDone i s t)
    (hwork' : WorkDone i s' t') : t.Alike t' := by
  obtain ⟨⟨a, latch, stack, rfl⟩, hlive⟩ := h
  cases i with
  | ret =>
    obtain ⟨hsp, rfl⟩ := hwork
    obtain ⟨-, rfl⟩ := hwork'
    have htop : stack[s.sp.val - 1] = s.stack[s.sp.val - 1] :=
      hlive ⟨s.sp.val - 1, by omega⟩ (by show s.sp.val - 1 < s.sp.val; omega)
    refine ⟨⟨a, latch, stack, ?_⟩, fun j hj => hlive j (Nat.lt_of_lt_of_le hj (Nat.sub_le ..))⟩
    simp only [State.popPc, htop]
  | callAddr =>
    obtain ⟨hsp, rfl⟩ := hwork
    obtain ⟨-, rfl⟩ := hwork'
    refine ⟨⟨a, latch, stack.set s.sp.val s.pc, rfl⟩, fun j hj => ?_⟩
    simp only [State.setPc_sp, State.push_sp, State.setPc_stack, State.push_stack, Vector.getElem_set] at hj ⊢
    split
    · rfl
    · exact hlive j (by omega)
  | jpV0 | ldB | ldMemVx | ldVxMem =>
    obtain ⟨-, rfl⟩ := hwork
    obtain ⟨-, rfl⟩ := hwork'
    exact ⟨⟨a, latch, stack, rfl⟩, hlive⟩
  | skp | sknp =>
    obtain ⟨k, hk, rfl⟩ := hwork
    obtain ⟨k', hk', rfl⟩ := hwork'
    obtain rfl : k = k' := Option.some.inj (hk.symm.trans hk')
    exact ⟨⟨a, latch, stack, rfl⟩, hlive⟩
  | ldVxK =>
    obtain ⟨k, hk, rfl⟩ | ⟨hk, rfl⟩ := hwork
    · obtain ⟨k', hk', rfl⟩ | ⟨hk', -⟩ := hwork'
      · obtain rfl : k = k' := Option.some.inj (hk.symm.trans hk')
        exact ⟨⟨a, latch, stack, rfl⟩, hlive⟩
      · cases hk.symm.trans hk'
    · obtain ⟨k', hk', -⟩ | ⟨-, rfl⟩ := hwork'
      · cases hk.symm.trans hk'
      · exact ⟨⟨a, latch, stack, rfl⟩, hlive⟩
  | _ =>
    cases hwork
    cases hwork'
    exact ⟨⟨a, latch, stack, rfl⟩, hlive⟩

/-- An instruction leaves alike states from alike states, with one stack from one stack. -/
theorem exec_alike (i : Instr) {s s' : State} (h : s.Alike s') :
    ∃ t t', exec i s = .next t ∧ exec i s' = .next t' ∧ t.Alike t' ∧ (s'.stack = s.stack → t'.stack = t.stack) := by
  obtain ⟨t, ht⟩ := exec_next i s
  obtain ⟨t', ht'⟩ := exec_next i s'
  refine ⟨t, t', ht, ht', ?_, fun hstack => ?_⟩
  · rcases exec_cases ht with ⟨k, d, herr, rfl⟩ | ⟨hok, hwork⟩ <;>
      rcases exec_cases ht' with ⟨k', d', herr', rfl⟩ | ⟨hok', hwork'⟩
    · cases herr.symm.trans ((h.errorOf_eq i).symm.trans herr')
      exact h.raiseHere k d
    · cases herr.symm.trans ((h.errorOf_eq i).symm.trans hok')
    · cases hok.symm.trans ((h.errorOf_eq i).symm.trans herr')
    · exact h.workDone hwork hwork'
  · obtain ⟨a, latch, stack, rfl⟩ := h.frame
    obtain rfl : stack = s.stack := hstack
    rw [exec_stack ht, exec_stack ht']
    cases i <;> rfl

/-- A step leaves alike states from alike states, with one stack from one stack. -/
theorem step_alike {s s' : State} (h : s.Alike s') :
    ∃ t t', step s = .next t ∧ step s' = .next t' ∧ t.Alike t' ∧ (s'.stack = s.stack → t'.stack = t.stack) := by
  obtain ⟨⟨a, latch, stack, rfl⟩, hlive⟩ := h
  rcases step_cases s with ⟨b, hfetch, hstep⟩ | ⟨w, e, hfetch, hdecode, hstep⟩ | ⟨w, i, hfetch, hdecode, hstep⟩
  · exact ⟨_, _, hstep, step_of_fetch_error hfetch, ⟨⟨a, true, stack, rfl⟩, hlive⟩, id⟩
  · exact ⟨_, _, hstep, step_of_unknown hfetch hdecode, ⟨⟨a, true, stack, rfl⟩, hlive⟩, id⟩
  · obtain ⟨t, t', ht, ht', halike⟩ := exec_alike i (s := s.beginStep w)
      (s' := State.beginStep { s with acc := a, faultLatch := latch, stack := stack } w) ⟨⟨a, latch, stack, rfl⟩, hlive⟩
    refine ⟨t, t', hstep.trans ht, Eq.trans ?_ ht', halike⟩
    exact step_of_decoded hfetch hdecode

theorem step_keeps_acc {s t : State} (h : step s = .next t) : t.acc = s.acc := by
  obtain ⟨u, hu, -, hacc, -⟩ := stepLeavesKeysAccumulatorAndTimers s
  cases hu.symm.trans h
  exact hacc

/-- The stack apart, what a step leaves of alike states differs by what it was given: the ACC it kept, and the latch it
kept or set. -/
theorem eq_of_step_alike {s s' t t' : State} (hst : step s = .next t) (hst' : step s' = .next t') (h : t.Alike t')
    (hlatch : s'.faultLatch = s.faultLatch) : t' = { t with acc := s'.acc, stack := t'.stack } := by
  have hacc : t'.acc = s'.acc := step_keeps_acc hst'
  have hset : t.faultLatch = (s.faultLatch || t.result.isErr) := (faultLatchIsSticky.1 s t hst).1
  have hset' : t'.faultLatch = (s'.faultLatch || t'.result.isErr) := (faultLatchIsSticky.1 s' t' hst').1
  obtain ⟨a, latch, stack, rfl⟩ := h.frame
  obtain rfl : a = s'.acc := hacc
  obtain rfl : latch = t.faultLatch := by rw [hset, ← hlatch]; exact hset'
  rfl

/-! ### The statements -/

/-- Settles O55: states that differ in ACC alone are alike and have one stack and one latch. -/
theorem stepIgnoresAccumulator : Obligations.StepIgnoresAccumulator := by
  unfold Obligations.StepIgnoresAccumulator
  intro s a
  obtain ⟨t, t', ht, ht', halike, hstack⟩ := step_alike (s := s) (s' := { s with acc := a })
    ⟨⟨a, s.faultLatch, s.stack, rfl⟩, fun _ _ => rfl⟩
  refine ⟨t, ht, ht'.trans (congrArg Host.Outcome.next ?_)⟩
  rw [eq_of_step_alike ht ht' halike rfl, hstack rfl]

/-- Settles O57: states that differ in dead entries alone are alike and have one ACC and one latch. -/
theorem deadStackEntriesAreUnobservable : Obligations.DeadStackEntriesAreUnobservable := by
  unfold Obligations.DeadStackEntriesAreUnobservable
  intro s s' hframe hlive
  obtain ⟨t, t', ht, ht', halike, -⟩ := step_alike (s := s) (s' := s')
    ⟨⟨s.acc, s.faultLatch, s'.stack, hframe⟩, hlive⟩
  have hlatch : s'.faultLatch = s.faultLatch := by rw [hframe]
  have hacc : s'.acc = t.acc := by rw [hframe, step_keeps_acc ht]
  refine ⟨t, t', ht, ht', ?_, halike.live⟩
  rw [eq_of_step_alike ht ht' halike hlatch, hacc]

/-- Alike states with one stack and one ACC hold the same hardware state. -/
theorem State.Alike.sameHardware {s s' : State} (h : s.Alike s') (hstack : s'.stack = s.stack) (hacc : s'.acc = s.acc) :
    State.SameHardware s s' ∧ s'.result = s.result := by
  obtain ⟨a, latch, stack, rfl⟩ := h.frame
  exact ⟨⟨⟨rfl, rfl, hstack, rfl, rfl, rfl, rfl, rfl, rfl, hacc⟩, rfl⟩, rfl⟩

/-- Settles O56: a step that begins overwrites what the step before returned, instr_pc and the word; what is left, the
latch, makes the states alike. -/
theorem stepIgnoresErrorHistory : Obligations.StepIgnoresErrorHistory := by
  unfold Obligations.StepIgnoresErrorHistory
  intro s latch res p word
  rcases step_cases s with ⟨b, hfetch, hstep⟩ | ⟨w, e, hfetch, hdecode, hstep⟩ | ⟨w, i, hfetch, hdecode, hstep⟩
  · exact ⟨_, _, hstep, step_of_fetch_error hfetch, ⟨⟨rfl, rfl, rfl, rfl, rfl, rfl, rfl, rfl, rfl, rfl⟩, rfl⟩, rfl⟩
  · exact ⟨_, _, hstep, step_of_unknown hfetch hdecode, ⟨⟨rfl, rfl, rfl, rfl, rfl, rfl, rfl, rfl, rfl, rfl⟩, rfl⟩, rfl⟩
  · obtain ⟨t, t', ht, ht', halike, hstack⟩ := exec_alike i (s := s.beginStep w)
      (s' := State.beginStep { s with faultLatch := latch, result := res, instrPc := p, opcode := word } w)
      ⟨⟨s.acc, latch, s.stack, rfl⟩, fun _ _ => rfl⟩
    obtain ⟨-, hacc, -⟩ := exec_keeps_inputs ht
    obtain ⟨-, hacc', -⟩ := exec_keeps_inputs ht'
    refine ⟨t, t', hstep.trans ht, Eq.trans ?_ ht', halike.sameHardware (hstack rfl) (hacc'.trans hacc.symm)⟩
    exact step_of_decoded hfetch hdecode

end Sys2Proof.Machine
end
